-- ==== Sys2Proof/Word.lean ====
section
/-! DEFINITION. The word types of the part: the byte of every packet and body, and the 16-bit and 32-bit words of its checks, counters and notice details. -/

namespace Sys2Proof

/-- One byte of a packet, a body, a colour component or art content. -/
abbrev Byte := BitVec 8

/-- A 16-bit word: the check of R154. -/
abbrev Half := BitVec 16

/-- A 32-bit word: the counters of R161 and R174, the frame number, a notice detail, the check of R180. -/
abbrev Word := BitVec 32

/-- A set of stock lines 0..7, member 0 in the least significant position. -/
abbrev LineSet := BitVec 8

/-- A set of groups or of outputs 0..3, member 0 in the least significant position. -/
abbrev FourSet := BitVec 4

end Sys2Proof
end

