-- ==== Sys2Proof/Syntax.lean ====
section
/-! DEFINITION. The commands and events of spec/opcode_table.json, one constructor per row, with their operands. -/

namespace Sys2Proof

/-- A 24-bit RGB colour (00_scope.md, Colours). -/
structure Colour where
  r : Byte
  g : Byte
  b : Byte
  deriving DecidableEq, Repr, Inhabited

/-- What the part reads from its pins at a frame start: the level of each stock line input (R64; bit i is line i, 1 is
HIGH) and the presence detect of each output (R121; bit k is output k). -/
structure FramePins where
  lines : LineSet
  presence : FourSet
  deriving DecidableEq, Repr, Inhabited

/-- What an input frame start brings (R141, R148): the geometry the frame marker announces, the nanoseconds since the
previous marker, and the rows of the active picture as far as they arrive, top row first (DESIGN CHOICE, log 7); the pins as
they stand for a frame start taken at this moment (R144, R146); and whether one locked period has already passed since the
latest frame start, which the interval does not tell (R146; DESIGN CHOICE, log 26). -/
structure InputFrame where
  width : Nat
  height : Nat
  interval : Nat
  rows : List (List Colour)
  pins : FramePins
  overdue : Bool
  deriving DecidableEq, Repr, Inhabited

/-- One command or event. A command's operand is its body, the bytes between the length and the check (R165). -/
inductive Instr where
  /-- RESTART, code 01h (R163). -/
  | restart (body : List Byte)
  /-- ITEM PUT, code 10h (R6). -/
  | itemPut (body : List Byte)
  /-- ITEM DROP, code 11h (R9). -/
  | itemDrop (body : List Byte)
  /-- ITEM GET, code 12h (R11). -/
  | itemGet (body : List Byte)
  /-- ITEM LIST, code 13h (R12). -/
  | itemList (body : List Byte)
  /-- PRICE PUT, code 14h (R14). -/
  | pricePut (body : List Byte)
  /-- FORMAT PUT, code 20h (R21). -/
  | formatPut (body : List Byte)
  /-- FORMAT GET, code 21h (R22). -/
  | formatGet (body : List Byte)
  /-- FORMAT MODE, code 22h (R23). -/
  | formatMode (body : List Byte)
  /-- SLOT PUT, code 30h (R40). -/
  | slotPut (body : List Byte)
  /-- SLOT DROP, code 31h (R41). -/
  | slotDrop (body : List Byte)
  /-- SLOT GET, code 32h (R42). -/
  | slotGet (body : List Byte)
  /-- MARK, code 40h (R76). -/
  | mark (body : List Byte)
  /-- AVAIL LIST, code 41h (R77). -/
  | availList (body : List Byte)
  /-- LINE PUT, code 42h (R71). -/
  | linePut (body : List Byte)
  /-- LINE GET, code 43h (R74). -/
  | lineGet (body : List Byte)
  /-- GROUP PUT, code 50h (R82). -/
  | groupPut (body : List Byte)
  /-- GROUP GET, code 51h (R83). -/
  | groupGet (body : List Byte)
  /-- FLIP, code 52h (R88). -/
  | flip (body : List Byte)
  /-- HOLD, code 53h (R105). -/
  | hold (body : List Byte)
  /-- RELEASE, code 54h (R105). -/
  | release (body : List Byte)
  /-- CLOCK SET, code 60h (R111). -/
  | clockSet (body : List Byte)
  /-- CLOCK GET, code 61h (R115). -/
  | clockGet (body : List Byte)
  /-- SCHEDULE PUT, code 62h (R117). -/
  | schedulePut (body : List Byte)
  /-- SCHEDULE DROP, code 63h (R119). -/
  | scheduleDrop (body : List Byte)
  /-- SCHEDULE GET, code 64h (R120). -/
  | scheduleGet (body : List Byte)
  /-- OUTPUT PUT, code 70h (R123). -/
  | outputPut (body : List Byte)
  /-- OUTPUT GET, code 71h (R124). -/
  | outputGet (body : List Byte)
  /-- PANEL RELINK, code 72h (R139). -/
  | panelRelink (body : List Byte)
  /-- FEED PUT, code 80h (R150). -/
  | feedPut (body : List Byte)
  /-- FEED GET, code 81h (R151). -/
  | feedGet (body : List Byte)
  /-- STATUS, code 90h (R177). -/
  | status (body : List Byte)
  /-- NOTICE PUT, code 91h (R176). -/
  | noticePut (body : List Byte)
  /-- ART OPEN, code A0h (R181). -/
  | artOpen (body : List Byte)
  /-- ART WRITE, code A1h (R182). -/
  | artWrite (body : List Byte)
  /-- ART CLOSE, code A2h (R183). -/
  | artClose (body : List Byte)
  /-- ART DROP, code A3h (R184). -/
  | artDrop (body : List Byte)
  /-- ART GET, code A4h (R185). -/
  | artGet (body : List Byte)
  /-- A command whose code belongs to no command (R159). -/
  | unknownCommand (code : Byte) (body : List Byte)
  /-- The bytes of one margin packet, header, body and check; fewer bytes than the header announces are a packet cut
  short by a failing signal (R153 to R158). -/
  | marginPacket (bytes : List Byte)
  /-- The reset pin is asserted (R164). -/
  | resetPinAsserted
  /-- The reset pin is released (R164). -/
  | resetPinReleased
  /-- Power-up ends (R164). -/
  | powerUp
  /-- A signal is found on the player link (R143). -/
  | signalFound
  /-- The signal is lost (R143); cutShort says that a margin packet was being read and is cut short by it (R153, R156). -/
  | signalLost (cutShort : Bool)
  /-- A frame marker arrives (R141). -/
  | inputFrameStart (frame : InputFrame)
  /-- 1.5 locked periods have passed since the latest accepted input frame start (R145), and a frame start comes at
  once (R146), which reads these pins. A term that leaves them out spells all levels LOW and no panel present (log 26). -/
  | missingFrame (pins : FramePins := ⟨0, 0⟩)
  /-- The last row of the active picture has been received (R148). -/
  | inputFrameComplete
  /-- The input frame completion at which the slot's watch counter reaches its watch frames (R61). -/
  | watchFramesReached (slot : Fin 256)
  /-- A frame start (R146). -/
  | frameStart (pins : FramePins)
  /-- The frame start at which the line's run count reaches its debounce (R65, R67). -/
  | debouncedChange (line : Fin 8) (pins : FramePins)
  /-- The frame start at which the coast count passes the coast limit (R147). -/
  | coastLimit (pins : FramePins)
  /-- The frame start at which the output's silence count reaches 60 in OFFER (R131). -/
  | silenceToPlain (output : Fin 4) (pins : FramePins)
  /-- The frame start at which the output's acknowledge wait reaches 30 in MATCH (R132). -/
  | ackWaitFailure (output : Fin 4) (pins : FramePins)
  /-- The frame start at which the output's silence count reaches 10 in UP or MISFIT (R134). -/
  | upSilenceDrop (output : Fin 4) (pins : FramePins)
  /-- The frame start at which the group's age reaches its timeout frames (R90). -/
  | flipTimeout (group : Fin 4) (pins : FramePins)
  /-- The frame start at which the group's flip executes (R93). -/
  | flipExecute (group : Fin 4) (pins : FramePins)
  /-- The frame start at which the group's fade completes (R94). -/
  | fadeComplete (group : Fin 4) (pins : FramePins)
  /-- The frame start at which the group's hold age reaches its hold limit (R104). -/
  | holdLimitApplies (group : Fin 4) (pins : FramePins)
  /-- The oscillator's second tick (R108). -/
  | secondTick
  /-- An ability word arrives on an output's return lane: the 8 bytes after its kind byte (R129, R167). -/
  | abilityWord (output : Fin 4) (bytes : List Byte)
  /-- A panel packet arrives on an output's return lane: the bytes after its kind byte (R167, R173). -/
  | panelPacket (output : Fin 4) (bytes : List Byte)
  /-- A unit of unknown kind arrives on an output's return lane (R167). -/
  | unknownUnit (output : Fin 4) (kind : Byte)
  /-- A return slot comes free (R168). -/
  | returnSlot
  deriving DecidableEq, Repr

end Sys2Proof
end

