-- ==== Sys2Proof/Config.lean ====
section
/-! DEFINITION. The sizes and limits that the spec fixes for the part. Nothing in them is left open: no free value was needed. -/

namespace Sys2Proof.Config

/-- R1: the item table holds up to 1024 records. -/
abbrev itemCapacity : Nat := 1024
/-- R1: codes are 1..65535. -/
abbrev maxCode : Nat := 65535
/-- R3: the largest price in minor units. -/
abbrev maxPrice : Nat := 9999999
/-- R36: slots are numbered 0..255. -/
abbrev slotCount : Nat := 256
/-- R12, R77: codes in one listing. -/
abbrev listLimit : Nat := 100
/-- R153: the longest body. -/
abbrev maxBody : Nat := 240
/-- R153: packets read from one margin. -/
abbrev packetsPerMargin : Nat := 8
/-- R158: replies the reply queue holds. -/
abbrev replyCapacity : Nat := 32
/-- R171: packets a down queue holds. -/
abbrev downCapacity : Nat := 8
/-- R172: packets placed in one output margin. -/
abbrev placedPerFrame : Nat := 4
/-- R173: packets an up queue holds. -/
abbrev upCapacity : Nat := 4
/-- R131: silence count at which OFFER becomes PLAIN. -/
abbrev plainSilence : Nat := 60
/-- R132: acknowledge wait that is a failure. -/
abbrev ackWaitLimit : Nat := 30
/-- R134: silence count at which UP and MISFIT drop. -/
abbrev dropSilence : Nat := 10
/-- R133: failure count of FAILED. -/
abbrev failureLimit : Nat := 8
/-- R179: blocks of the art memory. -/
abbrev artBlocks : Nat := 4096
/-- R179: bytes of one block. -/
abbrev blockBytes : Nat := 4096
/-- R25: glyph positions of a set. -/
abbrev glyphCount : Nat := 29
/-- R108: seconds of a day. -/
abbrev daySeconds : Nat := 86400
/-- R112: seconds of a week. -/
abbrev weekSeconds : Nat := 604800
/-- R140: the reset locked period of 1/60 s in nanoseconds, rounded as section 8.9 writes it (DEDUCED, log 9). -/
abbrev resetPeriod : Nat := 16666667
/-- R141: the shortest supported interval in nanoseconds. -/
abbrev minInterval : Nat := 16583333
/-- R141: the longest supported interval in nanoseconds. -/
abbrev maxInterval : Nat := 41875000
/-- R80, R90, R101: counts of frames stay at 65535. -/
abbrev frameCountTop : Nat := 65535

end Sys2Proof.Config
end

