-- ==== Sys2Proof/Machine/State.lean ====
section
/-! DEFINITION. The state of the part as plain data: every register, table, queue, counter, latch and pin that R1 to R185
give it, the queue of waiting commands, and the state after a full reset. -/

namespace Sys2Proof.Machine

/-! ## The reasons a step can stop -/

/-- There is none: the spec gives every event an effect and names nothing that stops the part. -/
inductive Fault where
  deriving DecidableEq, Repr

/-- The reasons for which the model gives a command no meaning. -/
inductive Refusal where
  /-- Raised by an arm of exec whose command has no meaning yet; safe, the model stops. No arm raises it. -/
  | notModelled (mnemonic : String)
  deriving DecidableEq, Repr

/-! ## Items and prices (R1, R2, R80) -/

/-- The two price columns. -/
inductive Bank where
  | A
  | B
  deriving DecidableEq, Repr, Inhabited

/-- The fields of an item record that are stored (R2), without its code. A price of none is ABSENT (R3); a stock class of
none is NONE; a badge of none is badge card 0, and some k is card k + 1. The two derived fields of R2 are worked out
(Machine/Flags.lean). -/
structure Item where
  priceA : Option Nat
  priceB : Option Nat
  format : Fin 8
  stockClass : Option (Fin 8)
  badge : Option (Fin 63)
  soldOut : Bool
  localOnly : Bool
  notify : Bool
  deriving DecidableEq, Repr, Inhabited

/-! ## Formats (R20, R23) -/

/-- The decimal mark of a format. -/
inductive DecimalMark where
  | point
  | comma
  deriving DecidableEq, Repr, Inhabited

/-- The group mark of a format. -/
inductive GroupMark where
  | absent
  | comma
  | point
  | apostrophe
  | thinSpace
  deriving DecidableEq, Repr, Inhabited

/-- The minor style of a format. -/
inductive MinorStyle where
  | inline
  | raised
  deriving DecidableEq, Repr, Inhabited

/-- Where the currency symbol stands. -/
inductive SymbolPlace where
  | before
  | after
  deriving DecidableEq, Repr, Inhabited

/-- One format record (R20). -/
structure Format where
  decimals : Fin 4
  decimalMark : DecimalMark
  groupMark : GroupMark
  minorStyle : MinorStyle
  dropZeroMinor : Bool
  symbol : Fin 5
  symbolPlace : SymbolPlace
  symbolGap : Bool
  deriving DecidableEq, Repr, Inhabited

/-- The format mode (R23): PER_ITEM when perItem is yes, else GLOBAL; the number is kept in both modes. -/
structure FormatMode where
  perItem : Bool
  number : Fin 8
  deriving DecidableEq, Repr, Inhabited

/-! ## Slots (R36 to R38, R59) -/

/-- Alignment of the price in its field. -/
inductive Alignment where
  | left
  | right
  | centre
  deriving DecidableEq, Repr, Inhabited

/-- The fit policy of a slot. -/
inductive FitPolicy where
  | trimThenDash
  | dash
  deriving DecidableEq, Repr, Inhabited

/-- The action of a treatment (R38): DIM holds its level, COVER its card less 1. -/
inductive Action where
  | keep
  | dim (level : Nat)
  | cover (card : Fin 63)
  deriving DecidableEq, Repr, Inhabited

/-- A treatment record (R38); hide yes is price setting HIDE. -/
structure Treatment where
  action : Action
  hide : Bool
  deriving DecidableEq, Repr, Inhabited

/-- The photo watch test of a slot. -/
inductive WatchMode where
  | off
  | matching
  | still
  deriving DecidableEq, Repr, Inhabited

/-- A slot record (R37). -/
structure SlotRecord where
  x : Nat
  y : Nat
  width : Nat
  height : Nat
  item : Nat
  fieldX : Nat
  fieldY : Nat
  fieldW : Nat
  align : Alignment
  glyphSet : Fin 4
  ink : Colour
  paper : Colour
  paperClear : Bool
  badgeX : Nat
  badgeY : Nat
  policy : FitPolicy
  soldOut : Treatment
  offMenu : Treatment
  photoMissing : Treatment
  watchMode : WatchMode
  watchColour : Colour
  tolerance : Fin 8
  watchFrames : Nat
  deriving DecidableEq, Repr, Inhabited

/-- The four probe colours of a slot's latest evaluation (R59), in the order (left, top), (right, top), (left, bottom),
(right, bottom). -/
structure Sample where
  lt : Colour
  rt : Colour
  lb : Colour
  rb : Colour
  deriving DecidableEq, Repr, Inhabited

/-- A recorded fit outcome (R34); nothing is NONE. -/
inductive FitOutcome where
  | nothing
  | drawn
  | trimmed
  | dashed
  | blank
  | noArt
  deriving DecidableEq, Repr, Inhabited

/-- What the part keeps for each slot, VACANT (no record) or BOUND (R36). -/
structure Slot where
  record : Option SlotRecord
  counter : Nat
  missing : Bool
  sample : Option Sample
  fit : Vector FitOutcome 4
  deriving DecidableEq, Repr, Inhabited

/-- R36: a slot after a full reset. -/
def Slot.reset : Slot :=
  { record := none, counter := 0, missing := false, sample := none, fit := Vector.replicate 4 .nothing }

/-! ## Views (R48 to R57) -/

/-- The view kinds of R48, less VACANT: a VACANT slot is in no frame view. -/
inductive ViewKind where
  | orphan
  | offMenu
  | soldOut
  | noPhoto
  | priced
  deriving DecidableEq, Repr, Inhabited

/-- What the action of a view draws (R50, R51): a cover is drawn as its card, or as the fallback colour. -/
inductive DrawnAction where
  | nothing
  | dim (level : Nat)
  | coverCard (card : Fin 63)
  | coverFallback (colour : Colour)
  deriving DecidableEq, Repr, Inhabited

/-- The price a view draws: the glyph set, the glyph positions left to right, and the fit outcome (R31, R54). -/
structure PriceDraw where
  glyphSet : Fin 4
  glyphs : List Nat
  outcome : FitOutcome
  deriving DecidableEq, Repr, Inhabited

/-- The view of one slot with everything it draws (R54), and the slot record it is drawn with (R56). -/
structure SlotView where
  kind : ViewKind
  record : SlotRecord
  action : DrawnAction
  price : Option PriceDraw
  badge : Option (Fin 63)
  deriving DecidableEq, Repr, Inhabited

/-- The frame view of a group: slot number and view of every slot that is not VACANT, in rising slot number (R45). -/
abbrev FrameView := List (Nat × SlotView)

/-- The picture a group draws in the open frame: one view, or the blend of two at a fade step (R55). -/
inductive GroupPicture where
  | single (view : FrameView)
  | fading (leaving entering : FrameView) (step length : Nat)
  deriving DecidableEq, Repr, Inhabited

/-! ## Stock lines (R63) -/

/-- The function of a stock line. -/
inductive LineFunction where
  | nothing
  | classOut
  | groupHold
  | groupFlip
  deriving DecidableEq, Repr, Inhabited

/-- A stock line: its configuration and its live state. activeHigh yes is polarity ACTIVE_HIGH; raw yes is HIGH. -/
structure Line where
  function : LineFunction
  activeHigh : Bool
  debounce : Nat
  stockClass : Fin 8
  groups : FourSet
  target : Bank
  masked : Bool
  raw : Bool
  active : Bool
  run : Nat
  deriving DecidableEq, Repr, Inhabited

/-- R63: a line after a full reset. The raw level is DESIGN CHOICE LOW (log 8). -/
def Line.reset : Line :=
  { function := .nothing, activeHigh := false, debounce := 4, stockClass := 0, groups := 0, target := .A, masked := false,
    raw := false, active := false, run := 0 }

/-! ## Groups (R80) -/

/-- The flip state of a group. -/
inductive FlipState where
  | idle
  | waiting
  | settling
  | fading
  deriving DecidableEq, Repr, Inhabited

/-- The hold phase of a group. -/
inductive HoldPhase where
  | free
  | captureDue
  | captured
  | releaseDue
  deriving DecidableEq, Repr, Inhabited

/-- A group record (R80); force yes is timeout policy FORCE. -/
structure Group where
  shown : Bank
  flip : FlipState
  target : Option Bank
  pendingTarget : Option Bank
  age : Nat
  settle : Nat
  fadeStep : Nat
  fadeLength : Nat
  settleFrames : Nat
  timeoutFrames : Nat
  force : Bool
  fadeFrames : Nat
  holdLimit : Nat
  commandHold : Bool
  lineHold : LineSet
  disregarded : LineSet
  phase : HoldPhase
  holdAge : Nat
  capture : Option FrameView
  deriving DecidableEq, Repr, Inhabited

/-- R80: a group after a full reset. -/
def Group.reset : Group :=
  { shown := .A, flip := .idle, target := none, pendingTarget := none, age := 0, settle := 0, fadeStep := 0,
    fadeLength := 0, settleFrames := 2, timeoutFrames := 600, force := false, fadeFrames := 0, holdLimit := 0,
    commandHold := false, lineHold := 0, disregarded := 0, phase := .free, holdAge := 0, capture := none }

/-! ## Clock and schedule (R108, R116) -/

/-- The daypart clock; running no is UNSET. -/
structure Clock where
  running : Bool
  day : Nat
  second : Nat
  deriving DecidableEq, Repr, Inhabited

/-- An in-use schedule entry. -/
structure Entry where
  time : Nat
  days : BitVec 7
  groups : FourSet
  target : Bank
  deriving DecidableEq, Repr, Inhabited

/-! ## Outputs (R121) -/

/-- The link state of an output. -/
inductive LinkState where
  | off
  | offer
  | matching
  | up
  | misfit
  | plain
  | failed
  deriving DecidableEq, Repr, Inhabited

/-- An ability: the fields of an ability word that are compared (R129). -/
structure Ability where
  width : Nat
  height : Nat
  rate : Nat
  returnCapable : Bool
  deriving DecidableEq, Repr, Inhabited

/-- An ability word (R129). -/
structure AbilityWord where
  ability : Ability
  fault : Bool
  ack : Bool
  deriving DecidableEq, Repr, Inhabited

/-- A good panel packet waiting in an up queue (R173). -/
structure PanelPacket where
  code : Byte
  body : List Byte
  deriving DecidableEq, Repr, Inhabited

/-- An output: its record, its link record and its relay queues and counters. A standby card of none is card 0, black;
some k is card k + 1. laneMuted says that the rest of the return lane is discarded up to the next frame start (R167). -/
structure Output where
  enabled : Bool
  x : Nat
  y : Nat
  width : Nat
  height : Nat
  group : Fin 4
  standby : Option (Fin 63)
  link : LinkState
  failures : Nat
  run : Nat
  runAbility : Option Ability
  silence : Nat
  ackWait : Nat
  matched : Option Ability
  latest : Option AbilityWord
  presence : Bool
  faultLatch : Bool
  dropLatch : Bool
  down : List (List Byte)
  up : List PanelPacket
  downDrops : Word
  upDrops : Word
  laneMuted : Bool
  deriving DecidableEq, Repr, Inhabited

/-- R121: output k after a full reset. The sampled presence is DESIGN CHOICE no (log 8); that a full reset ends the discarding of
the return lane's rest, for which R167 gives no reset value, is DESIGN CHOICE too (log 14). -/
def Output.reset (k : Nat) : Output :=
  { enabled := true, x := k * 1920, y := 0, width := 1920, height := 1080, group := 0, standby := none, link := .offer,
    failures := 0, run := 0, runAbility := none, silence := 0, ackWait := 0, matched := none, latest := none,
    presence := false, faultLatch := false, dropLatch := false, down := [], up := [], downDrops := 0, upDrops := 0,
    laneMuted := false }

/-! ## The feed (R140) -/

/-- The feed state. -/
inductive FeedState where
  | dark
  | training
  | locked
  | coasting
  deriving DecidableEq, Repr, Inhabited

/-- Width and height of a canvas. -/
structure Geometry where
  width : Nat
  height : Nat
  deriving DecidableEq, Repr, Inhabited

/-- The training run (R142): its count is the number of the constructor. -/
inductive Training where
  | empty
  | one (geometry : Geometry)
  | two (geometry : Geometry) (period : Nat)
  deriving DecidableEq, Repr, Inhabited

/-- A stored picture: its size and its rows, top row first. -/
structure Picture where
  geometry : Geometry
  rows : List (List Colour)
  deriving DecidableEq, Repr, Inhabited

/-- The feed record (R140), with what R141 and R148 imply: markerSeen says that an input frame start came since the signal
was found; live holds the rows of the latest accepted input frame; completes says that this frame has not completed and
still can. -/
structure Feed where
  state : FeedState
  signal : Bool
  geometry : Option Geometry
  period : Nat
  training : Training
  coast : Nat
  coastLimit : Nat
  lost : Bool
  frameNumber : Word
  lastGood : Option Picture
  markerSeen : Bool
  live : List (List Colour)
  completes : Bool
  deriving DecidableEq, Repr, Inhabited

/-- R140: the feed after a full reset, with no signal (DESIGN CHOICE, log 8). -/
def Feed.reset : Feed :=
  { state := .dark, signal := false, geometry := none, period := Config.resetPeriod, training := .empty, coast := 0,
    coastLimit := 1800, lost := false, frameNumber := 0, lastGood := none, markerSeen := false, live := [],
    completes := false }

/-! ## Margin channel and return lane (R153 to R174) -/

/-- The result codes of R160. -/
inductive ResultCode where
  | done
  | badLength
  | badField
  | noEntry
  | full
  | conflict
  | inUse
  | wrongState
  | badCheck
  | unknownCommand
  deriving DecidableEq, Repr, Inhabited

/-- A reply waiting in the reply queue (R159). -/
structure Reply where
  code : Byte
  result : ResultCode
  body : List Byte
  deriving DecidableEq, Repr, Inhabited

/-- The margin channel: packets read of the present margin and whether its reading has stopped (R153), the reply queue,
oldest first (R159), and the three counters (R161). -/
structure Margin where
  read : Nat
  stopped : Bool
  replies : List Reply
  taken : Word
  bad : Word
  turnedAway : Word
  deriving DecidableEq, Repr, Inhabited

/-- The classes of return traffic (R169). -/
inductive ReturnClass where
  | reply
  | relay
  | notice
  deriving DecidableEq, Repr, Inhabited

/-- The return arbiter's pointers (R169), and the bytes that the latest return slot carried (the lane as a pin, log 17). -/
structure ReturnLane where
  classPointer : ReturnClass
  relayPointer : Fin 4
  sent : Option (List Byte)
  deriving DecidableEq, Repr, Inhabited

/-! ## Notices (R174 to R176) -/

/-- The fourteen notice sources. -/
inductive Source where
  | restarted
  | feedDark
  | feedChange
  | panelLink
  | panelFault
  | flipDone
  | flipAbandoned
  | holdLimit
  | availChange
  | photoWatch
  | fitFault
  | marginFault
  | relayDrop
  | scheduleFired
  deriving DecidableEq, Repr, Inhabited

/-- The place of a source in the table of section 10.4: its number less 1. -/
def Source.index : Source → Fin 14
  | .restarted => 0
  | .feedDark => 1
  | .feedChange => 2
  | .panelLink => 3
  | .panelFault => 4
  | .flipDone => 5
  | .flipAbandoned => 6
  | .holdLimit => 7
  | .availChange => 8
  | .photoWatch => 9
  | .fitFault => 10
  | .marginFault => 11
  | .relayDrop => 12
  | .scheduleFired => 13

/-- A notice source: its priority, and its detail while it is pending. -/
structure Notice where
  priority : Nat
  held : Option Word
  deriving DecidableEq, Repr, Inhabited

/-- R163, R164, R175: RESTARTED is pending alone, the severe sources have level 8, the others priority 4. -/
def noticesReset : Vector Notice 14 :=
  ((Vector.replicate 14 { priority := 4, held := none }).set 1 { priority := 8, held := none }).set 0
    { priority := 8, held := some 0 }

/-! ## Art (R179) -/

/-- The shape of an art entry. -/
inductive Shape where
  | glyphSet (height : Nat) (advances : List Nat)
  | card (width height : Nat) (fill : Colour)
  deriving DecidableEq, Repr, Inhabited

/-- An OPEN or READY art entry: its shape and the content bytes written so far, in offset order. An EMPTY entry is not in
the store's list. -/
structure ArtEntry where
  ready : Bool
  shape : Shape
  content : List Byte
  deriving DecidableEq, Repr, Inhabited

/-- The art store: entries that are not EMPTY, by place: glyph set n has place n, card k has place k + 3 (R179). -/
abbrev Art := List (Nat × ArtEntry)

/-! ## The open output frame (R125, R129, R148) -/

/-- The frame one enabled output sends: the raster size, the window, the group and standby card it draws, and the bytes of
its margin before the FFh filler. -/
structure OutputFrame where
  rasterWidth : Nat
  rasterHeight : Nat
  x : Nat
  y : Nat
  width : Nat
  height : Nat
  group : Fin 4
  standby : Option (Fin 63)
  margin : List Byte
  deriving DecidableEq, Repr, Inhabited

/-- The canvas of a frame: the locked geometry, the rows received of the live input frame, and the last good frame. -/
structure Canvas where
  geometry : Geometry
  live : List (List Colour)
  back : Option Picture
  deriving DecidableEq, Repr, Inhabited

/-- The frame that the latest frame start opened: the canvas (none: standby cards), the art it is drawn with, and each
output's frame (none: the output is disabled and sends no signal). The groups' pictures stand in State.pictures. -/
structure OpenFrame where
  canvas : Option Canvas
  art : Art
  outputs : Vector (Option OutputFrame) 4
  deriving DecidableEq, Repr, Inhabited

/-! ## The whole state -/

/-- The state of the part and the queue of waiting commands. Tables held by key are lists in rising key order. -/
structure State where
  pending : List Instr
  resetPin : Bool
  items : List (Nat × Item)
  formats : Vector Format 8
  formatMode : FormatMode
  slots : List (Nat × Slot)
  lines : Vector Line 8
  groups : Vector Group 4
  clock : Clock
  schedule : List (Nat × Entry)
  outputs : Vector Output 4
  feed : Feed
  margin : Margin
  lane : ReturnLane
  notices : Vector Notice 14
  art : Art
  pictures : Vector GroupPicture 4
  frame : Option OpenFrame
  deriving DecidableEq, Repr

/-- R20: a format record after a full reset. -/
def Format.reset : Format :=
  { decimals := 2, decimalMark := .point, groupMark := .absent, minorStyle := .inline, dropZeroMinor := false, symbol := 0,
    symbolPlace := .before, symbolGap := false }

/-- The part right after a full reset (the table of R164 and the chapters it names), the reset pin released, no signal on
the player link and no command waiting. -/
def State.reset : State :=
  { pending := []
    resetPin := false
    items := []
    formats := Vector.replicate 8 Format.reset
    formatMode := { perItem := false, number := 0 }
    slots := []
    lines := Vector.replicate 8 Line.reset
    groups := Vector.replicate 4 Group.reset
    clock := { running := false, day := 0, second := 0 }
    schedule := []
    outputs := #v[Output.reset 0, Output.reset 1, Output.reset 2, Output.reset 3]
    feed := Feed.reset
    margin := { read := 0, stopped := false, replies := [], taken := 0, bad := 0, turnedAway := 0 }
    lane := { classPointer := .reply, relayPointer := 0, sent := none }
    notices := noticesReset
    art := []
    pictures := Vector.replicate 4 (.single [])
    frame := none }

end Sys2Proof.Machine
end

