-- ==== Sys2Proof/Machine/Flags.lean ====
section
/-! DEFINITION. The answers the part works out from its state: stock lines in force, sold-out flags, hold sources, membership
and readiness, agreement of intervals, words and colours, and the tests of the photo watch. -/

namespace Sys2Proof.Machine

/-! ## Stock lines and sold-out (R4, R66, R68, R75) -/

/-- R66: a line is in force while its debounced state is ACTIVE and it is not masked. -/
def Line.inForce (l : Line) : Bool := l.active && !l.masked

/-- R68: the line holds its class out. -/
def Line.marksOut (l : Line) (c : Fin 8) : Bool := l.inForce && l.function == .classOut && l.stockClass == c

/-- R68: a class is out while at least one CLASS_OUT line in force names it. -/
def classOut (lines : Vector Line 8) (c : Fin 8) : Bool := lines.toList.any (·.marksOut c)

/-- R4, R75: line sold-out; an item whose class is NONE always has no. -/
def Item.lineSoldOut (lines : Vector Line 8) (i : Item) : Bool :=
  match i.stockClass with
  | none => false
  | some c => classOut lines c

/-- R4, R75: merged sold-out = table sold-out OR (not local only AND line sold-out). -/
def Item.mergedSoldOut (lines : Vector Line 8) (i : Item) : Bool :=
  i.soldOut || (!i.localOnly && i.lineSoldOut lines)

/-- The item's price in a bank (R2). -/
def Item.price (i : Item) : Bank → Option Nat
  | .A => i.priceA
  | .B => i.priceB

/-! ## Groups (R81, R97) -/

/-- R97: the group has a hold source. -/
def Group.hasSource (g : Group) : Bool := g.commandHold || (g.lineHold &&& ~~~g.disregarded) != 0

/-- R98: a group is holding while its hold phase is not FREE. -/
def Group.holding (g : Group) : Bool := g.phase != .free

/-- R138: an output is ready while its link state is UP or PLAIN. -/
def Output.ready (o : Output) : Bool := o.link == .up || o.link == .plain

/-- R81: the members of a group are the enabled outputs whose group field names it. -/
def Output.memberOf (o : Output) (g : Fin 4) : Bool := o.enabled && o.group == g

/-- R81: a group is ready when every member is ready; one with no members is ready. -/
def groupReady (outputs : Vector Output 4) (g : Fin 4) : Bool :=
  outputs.toList.all (fun o => !o.memberOf g || o.ready)

/-! ## The feed (R141, R155) -/

/-- R141: a supported geometry. -/
def Geometry.supported (g : Geometry) : Bool :=
  decide (320 ≤ g.width ∧ g.width ≤ 7680 ∧ 240 ≤ g.height ∧ g.height ≤ 2160)

/-- R141: a supported interval, in nanoseconds. -/
def intervalSupported (i : Nat) : Bool := decide (Config.minInterval ≤ i ∧ i ≤ Config.maxInterval)

/-- R141: the later interval lies within 0.5 % of the earlier one, above or below (exactly: log 10). -/
def intervalsAgree (earlier later : Nat) : Bool :=
  decide ((later - earlier) * 200 ≤ earlier ∧ (earlier - later) * 200 ≤ earlier)

/-- R155, R164: margin packets are considered, and return slots come free, only while the feed is LOCKED. -/
def State.listening (s : State) : Bool := !s.resetPin && s.feed.state == .locked

/-! ## The handshake (R129) -/

/-- R129: a valid word. -/
def Ability.valid (a : Ability) : Bool :=
  decide (1 ≤ a.width ∧ a.width ≤ 3840 ∧ 1 ≤ a.height ∧ a.height ≤ 2160)

/-- The ability has the given width and height as its native size. -/
def Ability.sized (a : Ability) (w h : Nat) : Bool := a.width == w && a.height == h

/-- Width and height are those of the matched ability (R123, R134). -/
def Output.matchesSize (o : Output) (w h : Nat) : Bool :=
  match o.matched with
  | some a => a.sized w h
  | none => false

/-! ## Photo watch (R60) -/

/-- R60: two components agree when they are equal without their low t bits. -/
def componentsAgree (t : Fin 8) (p q : Byte) : Bool := p.toNat / 2 ^ t.val == q.toNat / 2 ^ t.val

/-- R60: two colours agree when all three components agree. -/
def coloursAgree (t : Fin 8) (p q : Colour) : Bool :=
  componentsAgree t p.r q.r && componentsAgree t p.g q.g && componentsAgree t p.b q.b

/-- R60, MATCH: each of the four probe colours agrees with the watch colour. -/
def Sample.allAgreeWith (t : Fin 8) (c : Colour) (p : Sample) : Bool :=
  coloursAgree t p.lt c && coloursAgree t p.rt c && coloursAgree t p.lb c && coloursAgree t p.rb c

/-- R60, STILL: each probe colour agrees with the colour at the same probe before. -/
def Sample.agreesWith (t : Fin 8) (p q : Sample) : Bool :=
  coloursAgree t p.lt q.lt && coloursAgree t p.rt q.rt && coloursAgree t p.lb q.lb && coloursAgree t p.rb q.rb

/-- R62: the number of slots that are MISSING. -/
def missingCount (slots : List (Nat × Slot)) : Nat := (slots.filter (fun e => e.2.missing)).length

/-- The number of BOUND slots (R40, R41). -/
def boundCount (slots : List (Nat × Slot)) : Nat := (slots.filter (fun e => e.2.record.isSome)).length

end Sys2Proof.Machine
end

