-- ==== Sys2Proof/WellFormed.lean ====
section
/-! DEFINITION. What shape an operand of a command must have for the command to be one that the player link or a panel link
can carry. The machine is total on every term; this check says which terms are senseless. -/

namespace Sys2Proof

/-- The command codes of the index (R165). -/
def commandCodes : List Byte :=
  [0x01, 0x10, 0x11, 0x12, 0x13, 0x14, 0x20, 0x21, 0x22, 0x30, 0x31, 0x32, 0x40, 0x41, 0x42, 0x43] ++
  [0x50, 0x51, 0x52, 0x53, 0x54, 0x60, 0x61, 0x62, 0x63, 0x64, 0x70, 0x71, 0x72, 0x80, 0x81, 0x90, 0x91] ++
  [0xA0, 0xA1, 0xA2, 0xA3, 0xA4]

/-- A body has at most 240 bytes (section 9.1). -/
def bodyFits (body : List Byte) : Bool := decide (body.length ≤ Config.maxBody)

/-- The bytes are one margin packet or the start of one: never more than the header announces (R153). -/
def marginBytesFit (bytes : List Byte) : Bool :=
  match bytes with
  | [] => false
  | [_] => true
  | [_, _] => true
  | _ :: _ :: n :: rest => decide (rest.length ≤ n.toNat + 2)

/-- The rows of an input frame: no more than the height announced, each of the width announced (section 8.2). -/
def InputFrame.fits (f : InputFrame) : Bool :=
  decide (f.rows.length ≤ f.height) && f.rows.all (fun row => decide (row.length = f.width))

/-- The bytes of a panel packet after its kind byte: code, length n, n bytes, check (R167). -/
def panelBytesFit (bytes : List Byte) : Bool :=
  match bytes with
  | _ :: n :: rest => decide (rest.length = n.toNat + 2)
  | _ => false

/-- The well-formed commands. -/
def Instr.wf : Instr → Bool
  | .restart b => bodyFits b
  | .itemPut b => bodyFits b
  | .itemDrop b => bodyFits b
  | .itemGet b => bodyFits b
  | .itemList b => bodyFits b
  | .pricePut b => bodyFits b
  | .formatPut b => bodyFits b
  | .formatGet b => bodyFits b
  | .formatMode b => bodyFits b
  | .slotPut b => bodyFits b
  | .slotDrop b => bodyFits b
  | .slotGet b => bodyFits b
  | .mark b => bodyFits b
  | .availList b => bodyFits b
  | .linePut b => bodyFits b
  | .lineGet b => bodyFits b
  | .groupPut b => bodyFits b
  | .groupGet b => bodyFits b
  | .flip b => bodyFits b
  | .hold b => bodyFits b
  | .release b => bodyFits b
  | .clockSet b => bodyFits b
  | .clockGet b => bodyFits b
  | .schedulePut b => bodyFits b
  | .scheduleDrop b => bodyFits b
  | .scheduleGet b => bodyFits b
  | .outputPut b => bodyFits b
  | .outputGet b => bodyFits b
  | .panelRelink b => bodyFits b
  | .feedPut b => bodyFits b
  | .feedGet b => bodyFits b
  | .status b => bodyFits b
  | .noticePut b => bodyFits b
  | .artOpen b => bodyFits b
  | .artWrite b => bodyFits b
  | .artClose b => bodyFits b
  | .artDrop b => bodyFits b
  | .artGet b => bodyFits b
  | .unknownCommand c b => !commandCodes.contains c && bodyFits b
  | .marginPacket bytes => marginBytesFit bytes
  | .resetPinAsserted => true
  | .resetPinReleased => true
  | .powerUp => true
  | .signalFound => true
  | .signalLost _ => true
  | .inputFrameStart f => f.fits
  | .missingFrame _ => true
  | .inputFrameComplete => true
  | .watchFramesReached _ => true
  | .frameStart _ => true
  | .debouncedChange _ _ => true
  | .coastLimit _ => true
  | .silenceToPlain _ _ => true
  | .ackWaitFailure _ _ => true
  | .upSilenceDrop _ _ => true
  | .flipTimeout _ _ => true
  | .flipExecute _ _ => true
  | .fadeComplete _ _ => true
  | .holdLimitApplies _ _ => true
  | .secondTick => true
  | .abilityWord _ bytes => decide (bytes.length = 8)
  | .panelPacket _ bytes => panelBytesFit bytes
  | .unknownUnit _ kind => kind != 1 && kind != 2
  | .returnSlot => true

end Sys2Proof
end

