-- ==== Sys2Proof/Machine/Ops.lean ====
section
/-! DEFINITION. The shared operations: reading and writing fields of bodies, the two checks, tables kept by key, notices,
replies and counters, taking a command, flip requests, hold sources, stock line changes and link changes. -/

namespace Sys2Proof.Machine

/-! ## Fields of a body: most significant byte first (00_scope.md, Byte order) -/

/-- The 8-bit field at an offset. -/
def u8 (b : List Byte) (i : Nat) : Nat := (b.getD i 0).toNat

/-- The 16-bit field at an offset. -/
def u16 (b : List Byte) (i : Nat) : Nat := u8 b i * 256 + u8 b (i + 1)

/-- The 32-bit field at an offset. -/
def u32 (b : List Byte) (i : Nat) : Nat := u16 b i * 65536 + u16 b (i + 2)

/-- The RGB colour at an offset. -/
def rgb (b : List Byte) (i : Nat) : Colour := { r := b.getD i 0, g := b.getD (i + 1) 0, b := b.getD (i + 2) 0 }

/-- An 8-bit field. -/
def put8 (n : Nat) : List Byte := [BitVec.ofNat 8 n]

/-- A 16-bit field. -/
def put16 (n : Nat) : List Byte := [BitVec.ofNat 8 (n / 256), BitVec.ofNat 8 n]

/-- A 32-bit field. -/
def put32 (n : Nat) : List Byte := put16 (n / 65536) ++ put16 n

/-- A yes/no field: yes is 1. -/
def putFlag (f : Bool) : List Byte := put8 f.toNat

/-- A colour field. -/
def putColour (c : Colour) : List Byte := [c.r, c.g, c.b]

/-- A bank field: 0 A, 1 B. -/
def Bank.code : Bank → Nat
  | .A => 0
  | .B => 1

/-- The bank of a field already checked to be 0 or 1. -/
def bankOf (n : Nat) : Bank := if n = 0 then .A else .B

/-- A bank or none field: FFh is none (R83). -/
def bankOrNone : Option Bank → Nat
  | none => 255
  | some b => b.code

/-! ## The checks (R154, R180) -/

/-- R154: one data bit into the 16-bit register. -/
def crc16Bit (reg : Half) (bit : Bool) : Half :=
  if reg.msb != bit then (reg <<< 1) ^^^ 0x1021#16 else reg <<< 1

/-- R154: one byte, most significant bit first. -/
def crc16Byte (reg : Half) (byte : Byte) : Half :=
  [7, 6, 5, 4, 3, 2, 1, 0].foldl (fun r i => crc16Bit r (byte.getLsbD i)) reg

/-- R154: the 16-bit check of a run of bytes. -/
def crc16 (bytes : List Byte) : Half := bytes.foldl crc16Byte 0xFFFF#16

/-- R180: one shift of the 32-bit register. -/
def crc32Shift (reg : Word) : Word :=
  if reg.getLsbD 0 then (reg >>> 1) ^^^ 0xEDB88320#32 else reg >>> 1

/-- R180: one byte. -/
def crc32Byte (reg : Word) (byte : Byte) : Word :=
  [0, 1, 2, 3, 4, 5, 6, 7].foldl (fun r _ => crc32Shift r) (reg ^^^ byte.zeroExtend 32)

/-- R180: the 32-bit check of a whole content. -/
def crc32 (bytes : List Byte) : Word := bytes.foldl crc32Byte 0xFFFFFFFF#32 ^^^ 0xFFFFFFFF#32

/-- Bytes followed by their check, most significant byte first (R154). -/
def withCheck (bytes : List Byte) : List Byte := bytes ++ put16 (crc16 bytes).toNat

/-- The last two bytes are the check of the bytes before them (R154). -/
def checkGood (bytes : List Byte) : Bool :=
  decide (2 ≤ bytes.length) && withCheck (bytes.take (bytes.length - 2)) == bytes

/-! ## Vectors and tables kept by key -/

/-- The vector whose entry i is f i. -/
def tab {α : Type} {n : Nat} (f : Fin n → α) : Vector α n := ⟨⟨List.ofFn f⟩, by simp⟩

/-- The entry of a key. -/
def Table.find? {α : Type} (t : List (Nat × α)) (k : Nat) : Option α :=
  match t with
  | [] => none
  | (j, v) :: rest => if j = k then some v else Table.find? rest k

/-- Write the entry of a key, keeping keys rising. -/
def Table.insert {α : Type} (t : List (Nat × α)) (k : Nat) (v : α) : List (Nat × α) :=
  match t with
  | [] => [(k, v)]
  | (j, w) :: rest =>
    if k < j then (k, v) :: (j, w) :: rest
    else if k = j then (k, v) :: rest
    else (j, w) :: Table.insert rest k v

/-- Remove the entry of a key. -/
def Table.erase {α : Type} (t : List (Nat × α)) (k : Nat) : List (Nat × α) := t.filter (fun e => e.1 != k)

/-- Keys rise strictly: the canonical form of a table. -/
abbrev Table.Rising {α : Type} (t : List (Nat × α)) : Prop := t.Pairwise (fun p q => p.1 < q.1)

/-- The slot of a number (R36): a slot that is not listed holds its reset values. -/
def State.slot (s : State) (n : Nat) : Slot := (Table.find? s.slots n).getD Slot.reset

/-- Write one slot; a slot that holds its reset values is not listed. -/
def State.putSlot (s : State) (n : Nat) (v : Slot) : State :=
  { s with slots := if v = Slot.reset then Table.erase s.slots n else Table.insert s.slots n v }

/-- Change every listed slot; one that comes to hold its reset values is no longer listed. -/
def mapSlots (f : Nat → Slot → Slot) (slots : List (Nat × Slot)) : List (Nat × Slot) :=
  (slots.map (fun e => (e.1, f e.1 e.2))).filter (fun e => e.2 != Slot.reset)

/-! ## Notices (R174, R175) -/

/-- The notice source's entry. -/
def State.notice (s : State) (src : Source) : Notice := s.notices[src.index]

/-- R175: raise a source; merge says what the owning rule makes of the detail held. Priority 0 ignores the raise. -/
def State.raise (src : Source) (merge : Option Word → Word) (s : State) : State :=
  if (s.notice src).priority = 0 then s
  else { s with notices := s.notices.set src.index ⟨(s.notice src).priority, some (merge (s.notice src).held)⟩ }

/-- The set with one member. -/
def member (i : Nat) : Word := BitVec.ofNat 32 (2 ^ i)

/-- Add members to a detail that is a set. -/
def addMembers (set : Word) (held : Option Word) : Word := held.getD 0 ||| set

/-- Raise a source whose detail is a set with every member of a set, which may be empty. -/
def State.raiseSet (src : Source) (set : Word) (s : State) : State := if set = 0 then s else s.raise src (addMembers set)

/-- The set of the groups or outputs that a test holds for, as a detail. -/
def fourWord (test : Fin 4 → Bool) : Word :=
  BitVec.ofNat 32 ((test 0).toNat + 2 * (test 1).toNat + 4 * (test 2).toNat + 8 * (test 3).toNat)

/-- Add to a detail that is a count staying at 65535 (R78). -/
def addCount (n : Nat) (held : Option Word) : Word := BitVec.ofNat 32 (min 65535 ((held.getD 0).toNat + n))

/-- Keep the smaller of the detail and a slot number (R35). -/
def keepLowest (n : Nat) (held : Option Word) : Word :=
  match held with
  | none => BitVec.ofNat 32 n
  | some d => BitVec.ofNat 32 (min d.toNat n)

/-- R162: the detail of two counts of 16 bits, each staying at 65535. -/
def addFaults (bad turned : Nat) (held : Option Word) : Word :=
  BitVec.ofNat 32 (min 65535 ((held.getD 0).toNat / 65536 + bad) * 65536 + min 65535 ((held.getD 0).toNat % 65536 + turned))

/-- R78: count net changes of merged sold-out. -/
def State.countAvail (n : Nat) (s : State) : State := if n = 0 then s else s.raise .availChange (addCount n)

/-- R62: a change of a MISSING flag raises PHOTO_WATCH with the number of slots MISSING just after it. -/
def State.raisePhotoWatch (s : State) : State :=
  s.raise .photoWatch (fun _ => BitVec.ofNat 32 (missingCount s.slots))

/-! ## Replies and packet counters (R156 to R162) -/

/-- The wire code of a result (R160). -/
def ResultCode.code : ResultCode → Nat
  | .done => 0
  | .badLength => 1
  | .badField => 2
  | .noEntry => 3
  | .full => 4
  | .conflict => 5
  | .inUse => 6
  | .wrongState => 7
  | .badCheck => 8
  | .unknownCommand => 9

/-- R159: a reply joins the back of the reply queue. -/
def State.queueReply (r : Reply) (s : State) : State :=
  { s with margin := { s.margin with replies := s.margin.replies ++ [r] } }

/-- R161: a packet is taken. -/
def State.countTaken (s : State) : State := { s with margin := { s.margin with taken := s.margin.taken + 1 } }

/-- R156, R162: a packet is discarded and counted as bad. -/
def State.badPacket (s : State) : State :=
  State.raise .marginFault (addFaults 1 0) { s with margin := { s.margin with bad := s.margin.bad + 1 } }

/-- R158, R162: a command is turned away. -/
def State.turnAway (s : State) : State :=
  State.raise .marginFault (addFaults 0 1) { s with margin := { s.margin with turnedAway := s.margin.turnedAway + 1 } }

/-- R153: reading of the present margin stops. -/
def State.stopMargin (s : State) : State := { s with margin := { s.margin with stopped := true } }

/-! ## Taking a command (R155, R158, R159) -/

/-- What executing a command leaves: the state, and the result code and body of its reply; no reply for a RESTART that
performs the reset (R159). -/
structure Answer where
  state : State
  reply : Option (ResultCode × List Byte)

/-- The command is carried out. -/
def Answer.done (s : State) (body : List Byte) : Answer := ⟨s, some (.done, body)⟩

/-- R160: a refused command changes nothing. -/
def Answer.refuse (s : State) (r : ResultCode) : Answer := ⟨s, some (r, [])⟩

/-- A refusal whose reply carries a body. -/
def Answer.refuseWith (s : State) (r : ResultCode) (body : List Byte) : Answer := ⟨s, some (r, body)⟩

/-- R159: the reply of a command taken joins the reply queue. -/
def Answer.settle (code : Byte) (a : Answer) : State :=
  match a.reply with
  | none => a.state
  | some r => a.state.queueReply ⟨code, r.1, r.2⟩

/-- R158, R159: a good packet for the part is turned away while the reply queue is full, else taken and executed. -/
def considerCommand (code : Byte) (effect : List Byte → State → Answer) (body : List Byte) (s : State) : State :=
  if Config.replyCapacity ≤ s.margin.replies.length then s.turnAway
  else (effect body s.countTaken).settle code

/-- R155: a command sent to the part; while the feed is not LOCKED it is discarded without a count. -/
def sendCommand (code : Byte) (effect : List Byte → State → Answer) (body : List Byte) (s : State) : State :=
  if s.listening then considerCommand code effect body s else s

/-! ## Flip requests (R84 to R87) -/

/-- The outcome of a flip request (R84). -/
inductive RequestOutcome where
  | already
  | started
  | merged
  | cancelled
  | deferred
  deriving DecidableEq, Repr

/-- The wire code of an outcome (R88); 0 is NOT_NAMED. -/
def RequestOutcome.code : RequestOutcome → Nat
  | .already => 1
  | .started => 2
  | .merged => 3
  | .cancelled => 4
  | .deferred => 5

/-- R85, IDLE: the request starts a flip, or finds its target already shown. -/
def Group.requestIdle (b : Bank) (g : Group) : Group × RequestOutcome :=
  if b = g.shown then (g, .already)
  else ({ g with flip := .waiting, target := some b, age := 0, settle := 0 }, .started)

/-- R85, WAITING or SETTLING: the request joins the flip or cancels it. -/
def Group.requestWaiting (b : Bank) (g : Group) : Group × RequestOutcome :=
  if g.target = some b then (g, .merged)
  else ({ g with flip := .idle, target := none, age := 0, settle := 0 }, .cancelled)

/-- R86, FADING: the request joins the fade, or waits for it as the pending target. -/
def Group.requestFading (b : Bank) (g : Group) : Group × RequestOutcome :=
  if g.target = some b then ({ g with pendingTarget := none }, .merged)
  else ({ g with pendingTarget := some b }, .deferred)

/-- R84 to R87: a group takes a flip request. -/
def Group.request (b : Bank) (g : Group) : Group × RequestOutcome :=
  if g.holding then ({ g with pendingTarget := some b }, .deferred)
  else match g.flip with
    | .idle => g.requestIdle b
    | .waiting => g.requestWaiting b
    | .settling => g.requestWaiting b
    | .fading => g.requestFading b

/-- One flip request to each group of a set. -/
def sendFlip (set : FourSet) (b : Bank) (groups : Vector Group 4) : Vector Group 4 :=
  tab (fun i => if set.getLsbD i.val then (groups[i].request b).1 else groups[i])

/-- The reply codes of a flip request sent to a set of groups (R88). -/
def flipCodes (set : FourSet) (b : Bank) (groups : Vector Group 4) (i : Fin 4) : Nat :=
  if set.getLsbD i.val then (groups[i].request b).2.code else 0

/-! ## Hold sources (R97 to R99) -/

/-- R98, R99: a FREE group gains a source: a waiting flip becomes the pending target, a fade goes on. -/
def Group.beginHold (g : Group) : Group :=
  if g.flip = .waiting ∨ g.flip = .settling then
    { g with phase := .captureDue, pendingTarget := g.target, flip := .idle, target := none, age := 0, settle := 0 }
  else { g with phase := .captureDue }

/-- R98: the group gains a source. -/
def Group.gainSource (g : Group) : Group :=
  match g.phase with
  | .free => g.beginHold
  | .releaseDue => if g.capture.isSome then { g with phase := .captured } else { g with phase := .captureDue }
  | .captureDue => g
  | .captured => g

/-- R98: the group loses its last source. -/
def Group.loseSource (g : Group) : Group :=
  match g.phase with
  | .captureDue => { g with phase := .releaseDue, capture := none }
  | .captured => { g with phase := .releaseDue }
  | .free => g
  | .releaseDue => g

/-- R98: the hold phase follows whether the group has a source before and after its sources changed. -/
def Group.sourcesChanged (before after : Group) : Group :=
  if !before.hasSource && after.hasSource then after.gainSource
  else if before.hasSource && !after.hasSource then after.loseSource
  else after

/-- R105: HOLD and RELEASE. -/
def Group.setCommandHold (f : Bool) (g : Group) : Group := g.sourcesChanged { g with commandHold := f }

/-- The stock lines in force that hold the group (R69). -/
def holdingLines (lines : Vector Line 8) (g : Fin 4) : LineSet :=
  let holds (i : Fin 8) : Bool :=
    lines[i].inForce && lines[i].function == .groupHold && lines[i].groups.getLsbD g.val
  BitVec.ofBoolListLE [holds 0, holds 1, holds 2, holds 3, holds 4, holds 5, holds 6, holds 7]

/-- R69, R72, R97: the touched lines are taken out of the line-hold and disregarded sets, and those that hold the group
now are added to the line-hold set. -/
def Group.relineSets (touched holding : LineSet) (g : Group) : Group :=
  { g with
    lineHold := (g.lineHold &&& ~~~touched) ||| (holding &&& touched)
    disregarded := g.disregarded &&& ~~~touched }

/-- The group takes the change of its line-hold set as one event (R67, R72). -/
def Group.reline (touched holding : LineSet) (g : Group) : Group :=
  g.sourcesChanged (g.relineSets touched holding)

/-- R78: the items with notify yes whose merged sold-out differs between two configurations of the lines. -/
def availChanges (items : List (Nat × Item)) (before after : Vector Line 8) : Nat :=
  (items.filter (fun e => e.2.notify && e.2.mergedSoldOut before != e.2.mergedSoldOut after)).length

/-- R67, R72: new configurations or debounced states of the lines land: the touched lines' holds are withdrawn and
applied, and merged sold-out changes are counted. -/
def State.landLines (touched : LineSet) (lines : Vector Line 8) (s : State) : State :=
  State.countAvail (availChanges s.items s.lines lines)
    { s with
      lines := lines
      groups := tab (fun i => s.groups[i].reline touched (holdingLines lines i)) }

/-! ## Link changes (R130, R133, R137) -/

/-- R130: every entry into OFFER sets the run count, the silence count and the acknowledge wait to 0. -/
def Output.toOffer (o : Output) : Output :=
  { o with link := .offer, run := 0, runAbility := none, silence := 0, ackWait := 0 }

/-- R133: a failure in MATCH. -/
def Output.fail (o : Output) : Output :=
  if Config.failureLimit ≤ o.failures + 1 then { o with failures := o.failures + 1, link := .failed }
  else ({ o with failures := o.failures + 1 }).toOffer

/-- Write an output; a change of its link state raises PANEL_LINK with it (R137). -/
def State.putOutput (k : Fin 4) (o : Output) (s : State) : State :=
  if o.link = s.outputs[k].link then { s with outputs := s.outputs.set k o }
  else State.raise .panelLink (addMembers (member k.val)) { s with outputs := s.outputs.set k o }

/-! ## Art (R179) -/

/-- R179: the size in bytes of a shape. -/
def Shape.size : Shape → Nat
  | .glyphSet h adv => h * adv.sum
  | .card w h _ => w * h * 4

/-- R179: the block count of a shape: the size divided by 4096, rounded up. -/
def Shape.blocks (s : Shape) : Nat := (s.size + (Config.blockBytes - 1)) / Config.blockBytes

/-- The block counts of every OPEN and READY entry together. -/
def usedBlocks (art : Art) : Nat := (art.map (fun e => e.2.shape.blocks)).sum

/-- R179: the free block count. -/
def freeBlocks (art : Art) : Nat := Config.artBlocks - usedBlocks art

/-- The place of glyph set n in the store. -/
def glyphPlace (n : Fin 4) : Nat := n.val

/-- The place in the store of the card that k stands for, card k + 1. -/
def cardPlace (k : Fin 63) : Nat := k.val + 4

/-- The entry at a place if it is READY. -/
def readyEntry (art : Art) (place : Nat) : Option ArtEntry :=
  match Table.find? art place with
  | some e => if e.ready then some e else none
  | none => none

/-- Height, advances and coverage of a READY glyph set. -/
def readyGlyphSet (art : Art) (n : Fin 4) : Option (Nat × List Nat × List Byte) :=
  match readyEntry art (glyphPlace n) with
  | some ⟨_, .glyphSet h adv, content⟩ => some (h, adv, content)
  | _ => none

/-- Width, height, fill colour and pixels of a READY card. -/
def readyCard (art : Art) (k : Fin 63) : Option (Nat × Nat × Colour × List Byte) :=
  match readyEntry art (cardPlace k) with
  | some ⟨_, .card w h fill, content⟩ => some (w, h, fill, content)
  | _ => none

/-- R57: the fit outcome of a price field that draws from its glyph set. -/
def FitOutcome.draws : FitOutcome → Bool
  | .drawn => true
  | .trimmed => true
  | .dashed => true
  | .blank => true
  | .nothing => false
  | .noArt => false

/-- R57: the captured view of one slot draws from the entry at a place. -/
def SlotView.uses (v : SlotView) (place : Nat) : Bool :=
  (match v.price with
    | some p => p.outcome.draws && glyphPlace p.glyphSet == place
    | none => false) ||
  (match v.action with
    | .coverCard k => cardPlace k == place
    | _ => false) ||
  (match v.badge with
    | some k => cardPlace k == place
    | none => false)

/-- R57, R184: some group's capture uses the entry at a place. -/
def captureUses (groups : Vector Group 4) (place : Nat) : Bool :=
  groups.toList.any (fun g => (g.capture.getD []).any (fun e => e.2.uses place))

/-! ## The next state -/

/-- The next state of an outcome, if it is one. -/
def nextState? (o : Host.Outcome State Fault Refusal) : Option State :=
  match o with
  | .next s => some s
  | .fault _ => none
  | .refused _ => none

end Sys2Proof.Machine
end

