-- ==== Sys2Proof/Machine/Operands.lean ====
section
/-! DEFINITION. The operand forms: for each record that a command carries, which bodies its fields allow, how the record is
read from the body, and how it is written into a reply (the layouts of section 9.6 and the field tables of the chapters). -/

namespace Sys2Proof.Machine

/-! ## Items (R2, R3, R6, item record body of section 9.6) -/

/-- R3: a price field; ABSENT is FFFFFFFFh. -/
def putPrice : Option Nat → List Byte
  | none => put32 0xFFFFFFFF
  | some p => put32 p

/-- R3: the price a field carries, if it is one. -/
def priceOf (n : Nat) : Option Nat := if n = 0xFFFFFFFF then none else some n

/-- R3: 10,000,000..FFFFFFFEh are not prices. -/
def priceGood (n : Nat) : Bool := decide (n ≤ Config.maxPrice ∨ n = 0xFFFFFFFF)

/-- A card field: 0 is no card, else the card (R2, R121). -/
def cardOf (n : Nat) : Option (Fin 63) := if n = 0 then none else some (Fin.ofNat 63 (n - 1))

/-- The wire value of a card field. -/
def cardCode : Option (Fin 63) → Nat
  | none => 0
  | some k => k.val + 1

/-- R6: the field checks of ITEM PUT. -/
def itemFieldsGood (b : List Byte) : Bool :=
  decide (u16 b 0 ≠ 0 ∧ u8 b 10 < 8 ∧ (u8 b 11 < 8 ∨ u8 b 11 = 255) ∧ u8 b 12 < 64 ∧ u8 b 13 < 32)

/-- R7, R8: the settable fields of the body, with given prices. -/
def readItem (b : List Byte) (priceA priceB : Option Nat) : Item :=
  { priceA := priceA
    priceB := priceB
    format := Fin.ofNat 8 (u8 b 10)
    stockClass := if u8 b 11 = 255 then none else some (Fin.ofNat 8 (u8 b 11))
    badge := cardOf (u8 b 12)
    soldOut := (u8 b 13).testBit 0
    localOnly := (u8 b 13).testBit 1
    notify := (u8 b 13).testBit 2 }

/-- The flags byte of an item record body. -/
def itemFlags (lines : Vector Line 8) (i : Item) : Nat :=
  i.soldOut.toNat + 2 * i.localOnly.toNat + 4 * i.notify.toNat + 8 * (i.lineSoldOut lines).toNat +
    16 * (i.mergedSoldOut lines).toNat

/-- The wire value of a stock class. -/
def classCode : Option (Fin 8) → Nat
  | none => 255
  | some c => c.val

/-- R11: the item record body, 14 bytes. -/
def itemBody (lines : Vector Line 8) (code : Nat) (i : Item) : List Byte :=
  put16 code ++ putPrice i.priceA ++ putPrice i.priceB ++ put8 i.format.val ++ put8 (classCode i.stockClass) ++
    put8 (cardCode i.badge) ++ put8 (itemFlags lines i)

/-! ## Formats (R20, R21) -/

/-- The decimal mark of a field already checked. -/
def decimalMarkOf (n : Nat) : DecimalMark := if n = 0 then .point else .comma

/-- The wire value of a decimal mark. -/
def DecimalMark.code : DecimalMark → Nat
  | .point => 0
  | .comma => 1

/-- The group mark of a field already checked. -/
def groupMarkOf (n : Nat) : GroupMark :=
  if n = 0 then .absent else if n = 1 then .comma else if n = 2 then .point else if n = 3 then .apostrophe else .thinSpace

/-- The wire value of a group mark. -/
def GroupMark.code : GroupMark → Nat
  | .absent => 0
  | .comma => 1
  | .point => 2
  | .apostrophe => 3
  | .thinSpace => 4

/-- R21: the field values of section 2.2. -/
def formatFieldsInRange (b : List Byte) : Bool :=
  decide (u8 b 0 < 8 ∧ u8 b 1 < 4 ∧ u8 b 2 < 2 ∧ u8 b 3 < 5 ∧ u8 b 4 < 2 ∧ u8 b 5 < 2 ∧ u8 b 6 < 5 ∧ u8 b 7 < 2 ∧
    u8 b 8 < 2)

/-- R21: the group mark is the same character as the decimal mark while decimals is 1..3. -/
def formatMarksClash (b : List Byte) : Bool :=
  decide (u8 b 1 ≠ 0 ∧ ((u8 b 3 = 1 ∧ u8 b 2 = 1) ∨ (u8 b 3 = 2 ∧ u8 b 2 = 0)))

/-- R21: the record of a FORMAT PUT body. -/
def readFormat (b : List Byte) : Format :=
  { decimals := Fin.ofNat 4 (u8 b 1)
    decimalMark := decimalMarkOf (u8 b 2)
    groupMark := groupMarkOf (u8 b 3)
    minorStyle := if u8 b 4 = 0 then .inline else .raised
    dropZeroMinor := u8 b 5 == 1
    symbol := Fin.ofNat 5 (u8 b 6)
    symbolPlace := if u8 b 7 = 0 then .before else .after
    symbolGap := u8 b 8 == 1 }

/-- R22: the format record body, 9 bytes. -/
def formatBody (n : Nat) (f : Format) : List Byte :=
  put8 n ++ put8 f.decimals.val ++ put8 f.decimalMark.code ++ put8 f.groupMark.code ++
    put8 (if f.minorStyle = .inline then 0 else 1) ++ putFlag f.dropZeroMinor ++ put8 f.symbol.val ++
    put8 (if f.symbolPlace = .before then 0 else 1) ++ putFlag f.symbolGap

/-! ## Slots (R37 to R39) -/

/-- R39: a treatment's three fields at an offset suit each other. -/
def treatmentGood (b : List Byte) (i : Nat) : Bool :=
  decide (((u8 b i = 0 ∧ u8 b (i + 1) = 0) ∨ (u8 b i = 1 ∧ 1 ≤ u8 b (i + 1) ∧ u8 b (i + 1) ≤ 7) ∨
    (u8 b i = 2 ∧ 1 ≤ u8 b (i + 1) ∧ u8 b (i + 1) ≤ 63)) ∧ u8 b (i + 2) < 2)

/-- The treatment at an offset of a body already checked. -/
def readTreatment (b : List Byte) (i : Nat) : Treatment :=
  { action :=
      if u8 b i = 0 then .keep
      else if u8 b i = 1 then .dim (u8 b (i + 1))
      else .cover (Fin.ofNat 63 (u8 b (i + 1) - 1))
    hide := u8 b (i + 2) == 1 }

/-- The three bytes of a treatment. -/
def treatmentBody (t : Treatment) : List Byte :=
  (match t.action with
    | .keep => put8 0 ++ put8 0
    | .dim l => put8 1 ++ put8 l
    | .cover k => put8 2 ++ put8 (k.val + 1)) ++ putFlag t.hide

/-- R39: the place and size of a slot. -/
def slotPlaceGood (b : List Byte) : Bool :=
  decide (u16 b 1 ≤ 7679 ∧ u16 b 3 ≤ 2159 ∧ 1 ≤ u16 b 5 ∧ u16 b 5 ≤ 3840 ∧ 1 ≤ u16 b 7 ∧ u16 b 7 ≤ 2160 ∧
    u16 b 1 + u16 b 5 ≤ 7680 ∧ u16 b 3 + u16 b 7 ≤ 2160)

/-- R39: the price field and the badge offset of a slot. -/
def slotFieldGood (b : List Byte) : Bool :=
  decide (1 ≤ u16 b 15 ∧ u16 b 15 ≤ 3840 ∧ u16 b 11 + u16 b 15 ≤ u16 b 5 ∧ u16 b 13 < u16 b 7 ∧
    u16 b 26 < u16 b 5 ∧ u16 b 28 < u16 b 7)

/-- R39: the field checks of SLOT PUT. -/
def slotFieldsGood (b : List Byte) : Bool :=
  decide (u16 b 9 ≠ 0) && slotPlaceGood b && slotFieldGood b &&
    decide (u8 b 17 < 3 ∧ u8 b 18 < 4 ∧ u8 b 25 < 2 ∧ u8 b 30 < 2) &&
    treatmentGood b 31 && treatmentGood b 34 && treatmentGood b 37 &&
    decide (u8 b 40 < 3 ∧ u8 b 44 < 8 ∧ u16 b 45 ≠ 0)

/-- R40: the record of a SLOT PUT body. -/
def readSlot (b : List Byte) : SlotRecord :=
  { x := u16 b 1
    y := u16 b 3
    width := u16 b 5
    height := u16 b 7
    item := u16 b 9
    fieldX := u16 b 11
    fieldY := u16 b 13
    fieldW := u16 b 15
    align := if u8 b 17 = 0 then .left else if u8 b 17 = 1 then .right else .centre
    glyphSet := Fin.ofNat 4 (u8 b 18)
    ink := rgb b 19
    paper := rgb b 22
    paperClear := u8 b 25 == 1
    badgeX := u16 b 26
    badgeY := u16 b 28
    policy := if u8 b 30 = 0 then .trimThenDash else .dash
    soldOut := readTreatment b 31
    offMenu := readTreatment b 34
    photoMissing := readTreatment b 37
    watchMode := if u8 b 40 = 0 then .off else if u8 b 40 = 1 then .matching else .still
    watchColour := rgb b 41
    tolerance := Fin.ofNat 8 (u8 b 44)
    watchFrames := u16 b 45 }

/-- The wire value of an alignment. -/
def Alignment.code : Alignment → Nat
  | .left => 0
  | .right => 1
  | .centre => 2

/-- The wire value of a watch mode. -/
def WatchMode.code : WatchMode → Nat
  | .off => 0
  | .matching => 1
  | .still => 2

/-- R42: the slot record body, 47 bytes. -/
def slotBody (n : Nat) (r : SlotRecord) : List Byte :=
  put8 n ++ put16 r.x ++ put16 r.y ++ put16 r.width ++ put16 r.height ++ put16 r.item ++ put16 r.fieldX ++
    put16 r.fieldY ++ put16 r.fieldW ++ put8 r.align.code ++ put8 r.glyphSet.val ++ putColour r.ink ++
    putColour r.paper ++ putFlag r.paperClear ++ put16 r.badgeX ++ put16 r.badgeY ++
    put8 (if r.policy = .trimThenDash then 0 else 1) ++ treatmentBody r.soldOut ++ treatmentBody r.offMenu ++
    treatmentBody r.photoMissing ++ put8 r.watchMode.code ++ putColour r.watchColour ++ put8 r.tolerance.val ++
    put16 r.watchFrames

/-! ## Stock lines (R71, R74) -/

/-- R71: the field checks of LINE PUT. -/
def lineFieldsGood (b : List Byte) : Bool :=
  decide (u8 b 0 < 8 ∧ u8 b 1 < 4 ∧ u8 b 2 < 2 ∧ 1 ≤ u8 b 3 ∧ u8 b 3 ≤ 15 ∧ u8 b 4 < 8 ∧ u8 b 5 < 16 ∧ u8 b 6 < 2 ∧
    u8 b 7 < 2)

/-- The line function of a field already checked. -/
def lineFunctionOf (n : Nat) : LineFunction :=
  if n = 0 then .nothing else if n = 1 then .classOut else if n = 2 then .groupHold else .groupFlip

/-- The wire value of a line function. -/
def LineFunction.code : LineFunction → Nat
  | .nothing => 0
  | .classOut => 1
  | .groupHold => 2
  | .groupFlip => 3

/-- R71: a LINE PUT replaces the seven configuration fields; a change of polarity or debounce sets the run count to 0; the
raw level and the debounced state stay. -/
def configureLine (b : List Byte) (l : Line) : Line :=
  { function := lineFunctionOf (u8 b 1)
    activeHigh := u8 b 2 == 1
    debounce := u8 b 3
    stockClass := Fin.ofNat 8 (u8 b 4)
    groups := BitVec.ofNat 4 (u8 b 5)
    target := bankOf (u8 b 6)
    masked := u8 b 7 == 1
    raw := l.raw
    active := l.active
    run := if l.activeHigh = (u8 b 2 == 1) ∧ l.debounce = u8 b 3 then l.run else 0 }

/-- R74: the LINE PUT body of a line's configuration, 8 bytes. -/
def lineBody (n : Nat) (l : Line) : List Byte :=
  put8 n ++ put8 l.function.code ++ putFlag l.activeHigh ++ put8 l.debounce ++ put8 l.stockClass.val ++
    put8 l.groups.toNat ++ put8 l.target.code ++ putFlag l.masked

/-! ## Groups (R82, R83) -/

/-- R82: the field checks of GROUP PUT. -/
def groupFieldsGood (b : List Byte) : Bool := decide (u8 b 0 < 4 ∧ u8 b 4 < 2 ∧ u8 b 5 ≤ 30)

/-- R82: GROUP PUT replaces the five parameters. -/
def parameterise (b : List Byte) (g : Group) : Group :=
  { g with
    settleFrames := u8 b 1
    timeoutFrames := u16 b 2
    force := u8 b 4 == 1
    fadeFrames := u8 b 5
    holdLimit := u16 b 6 }

/-- The wire value of a flip state (R83). -/
def FlipState.code : FlipState → Nat
  | .idle => 0
  | .waiting => 1
  | .settling => 2
  | .fading => 3

/-- The wire value of a hold phase (R83). -/
def HoldPhase.code : HoldPhase → Nat
  | .free => 0
  | .captureDue => 1
  | .captured => 2
  | .releaseDue => 3

/-- The set of outputs that a test holds for, as a mask byte. -/
def outputMask (outputs : Vector Output 4) (test : Output → Bool) : Nat :=
  (test outputs[0]).toNat + 2 * (test outputs[1]).toNat + 4 * (test outputs[2]).toNat + 8 * (test outputs[3]).toNat

/-- R83: the GROUP GET body, 25 bytes. -/
def groupBody (outputs : Vector Output 4) (i : Fin 4) (g : Group) : List Byte :=
  put8 i.val ++ put8 g.shown.code ++ put8 g.flip.code ++ put8 (bankOrNone g.target) ++
    put8 (bankOrNone g.pendingTarget) ++ put16 g.age ++ put8 g.settle ++ put8 g.fadeStep ++ put8 g.fadeLength ++
    put8 g.settleFrames ++ put16 g.timeoutFrames ++ putFlag g.force ++ put8 g.fadeFrames ++ put16 g.holdLimit ++
    putFlag g.commandHold ++ put8 g.lineHold.toNat ++ put8 g.disregarded.toNat ++ put8 g.phase.code ++
    put16 g.holdAge ++ put8 (outputMask outputs (fun o => o.memberOf i)) ++
    put8 (outputMask outputs (fun o => o.memberOf i && o.ready))

/-- A set field of groups or outputs is not empty and names none above 3. -/
def setOfFourGood (n : Nat) : Bool := decide (1 ≤ n ∧ n < 16)

/-! ## Schedule (R117, R120) -/

/-- R117: the field checks of SCHEDULE PUT. -/
def scheduleFieldsGood (b : List Byte) : Bool :=
  decide (u8 b 0 < 32 ∧ u32 b 1 < Config.daySeconds ∧ 1 ≤ u8 b 5 ∧ u8 b 5 < 128 ∧ 1 ≤ u8 b 6 ∧ u8 b 6 < 16 ∧
    u8 b 7 < 2)

/-- R118: the entry of a SCHEDULE PUT body. -/
def readEntry (b : List Byte) : Entry :=
  { time := u32 b 1, days := BitVec.ofNat 7 (u8 b 5), groups := BitVec.ofNat 4 (u8 b 6), target := bankOf (u8 b 7) }

/-- R120: the SCHEDULE PUT body of an entry, 8 bytes. -/
def entryBody (n : Nat) (e : Entry) : List Byte :=
  put8 n ++ put32 e.time ++ put8 e.days.toNat ++ put8 e.groups.toNat ++ put8 e.target.code

/-- R117: two entries conflict. -/
def Entry.conflicts (e f : Entry) : Bool :=
  e.time == f.time && (e.days &&& f.days) != 0 && (e.groups &&& f.groups) != 0

/-! ## Outputs (R122, R124, R167) -/

/-- R122: the field checks of OUTPUT PUT. -/
def outputFieldsGood (b : List Byte) : Bool :=
  decide (u8 b 0 < 4 ∧ u8 b 1 < 2 ∧ u16 b 2 ≤ 7679 ∧ u16 b 4 ≤ 2159 ∧ 1 ≤ u16 b 6 ∧ u16 b 6 ≤ 3840 ∧ 1 ≤ u16 b 8 ∧
    u16 b 8 ≤ 2160 ∧ u16 b 2 + u16 b 6 ≤ 7680 ∧ u16 b 4 + u16 b 8 ≤ 2160 ∧ u8 b 10 < 4 ∧ u8 b 11 < 64)

/-- R123: OUTPUT PUT replaces the fields of the record. -/
def recordOutput (b : List Byte) (o : Output) : Output :=
  { o with
    enabled := u8 b 1 == 1
    x := u16 b 2
    y := u16 b 4
    width := u16 b 6
    height := u16 b 8
    group := Fin.ofNat 4 (u8 b 10)
    standby := cardOf (u8 b 11) }

/-- The wire value of a link state (R124). -/
def LinkState.code : LinkState → Nat
  | .off => 0
  | .offer => 1
  | .matching => 2
  | .up => 3
  | .misfit => 4
  | .plain => 5
  | .failed => 6

/-- R124: the eight bytes of the latest word, the first saying whether there is one. -/
def latestBody : Option AbilityWord → List Byte
  | none => List.replicate 8 0
  | some w =>
    put8 1 ++ put16 w.ability.width ++ put16 w.ability.height ++ put8 w.ability.rate ++
      putFlag w.ability.returnCapable ++ putFlag w.fault

/-- R124: the OUTPUT GET body, 25 bytes. -/
def outputBody (k : Nat) (o : Output) : List Byte :=
  put8 k ++ putFlag o.enabled ++ put16 o.x ++ put16 o.y ++ put16 o.width ++ put16 o.height ++ put8 o.group.val ++
    put8 (cardCode o.standby) ++ put8 o.link.code ++ put8 o.failures ++ putFlag o.presence ++ putFlag o.faultLatch ++
    putFlag o.dropLatch ++ latestBody o.latest

/-- R167: the ability word of the 8 bytes after its kind byte; a word of another length or with a bad check is no arrival
(R129). Flag positions 3..7 are ignored. -/
def readAbilityWord (b : List Byte) : Option AbilityWord :=
  if b.length = 8 ∧ checkGood b = true then
    some
      { ability :=
          { width := u16 b 0, height := u16 b 2, rate := u8 b 4, returnCapable := (u8 b 5).testBit 0 }
        fault := (u8 b 5).testBit 1
        ack := (u8 b 5).testBit 2 }
  else none

/-- R167, R173: the panel packet of the bytes after its kind byte, if it is whole, its length at most 240 and its check
good. -/
def readPanelPacket (b : List Byte) : Option PanelPacket :=
  if u8 b 1 ≤ Config.maxBody ∧ b.length = u8 b 1 + 4 ∧ checkGood b = true then
    some { code := b.getD 0 0, body := (b.drop 2).take (u8 b 1) }
  else none

/-- R167: the offer word, 5 bytes (R129: ack is yes in MATCH, UP and MISFIT). -/
def offerWord (o : Output) : List Byte :=
  put16 o.width ++ put16 o.height ++ putFlag (o.link == .matching || o.link == .up || o.link == .misfit)

/-! ## Art (R179, R181) -/

/-- R179: the place of the entry that kind and number name, if they are in range. -/
def artPlace (kind number : Nat) : Option Nat :=
  if kind = 0 then (if number < 4 then some number else none)
  else if kind = 1 then (if 1 ≤ number ∧ number < 64 then some (number + 3) else none)
  else none

/-- The kind and number of a place. -/
def placeName (place : Nat) : List Byte := if place < 4 then put8 0 ++ put8 place else put8 1 ++ put8 (place - 3)

/-- R181: the shape an ART OPEN body of the right length carries. -/
def readShape (b : List Byte) : Shape :=
  if u8 b 0 = 0 then .glyphSet (u16 b 2) ((b.drop 4).map (·.toNat))
  else .card (u16 b 2) (u16 b 4) (rgb b 6)

/-- R181: the shape's fields are in range. -/
def Shape.good : Shape → Bool
  | .glyphSet h adv => decide (8 ≤ h ∧ h ≤ 256) && adv.all (· != 0)
  | .card w h _ => decide (1 ≤ w ∧ w ≤ 1024 ∧ 1 ≤ h ∧ h ≤ 1024)

/-- R185: the shape fields of an ART GET reply; an EMPTY entry's are 0. -/
def shapeBody (kind : Nat) : Option Shape → List Byte
  | none => List.replicate (if kind = 0 then 31 else 7) 0
  | some (.glyphSet h adv) => put16 h ++ adv.flatMap put8
  | some (.card w h fill) => put16 w ++ put16 h ++ putColour fill

end Sys2Proof.Machine
end

