-- ==== Sys2Proof/Machine/ArtStore.lean ====
section
/-! DEFINITION. The art store (chapter 11): ART OPEN, ART WRITE, ART CLOSE, ART DROP and ART GET. -/

namespace Sys2Proof.Machine

/-- R181: an entry other than the named one that is OPEN. -/
def otherOpen (art : Art) (place : Nat) : Option Nat :=
  (art.find? (fun e => e.1 != place && !e.2.ready)).map (·.1)

/-- R179: the blocks of the entry at a place; an EMPTY entry has none. -/
def blocksAt (art : Art) (place : Nat) : Nat :=
  match Table.find? art place with
  | some e => e.shape.blocks
  | none => 0

/-- R181: the store after an ART OPEN that passes. -/
def openEntry (art : Art) (place : Nat) (shape : Shape) : Art :=
  Table.insert art place { ready := false, shape := shape, content := [] }

/-- R181: size, block count and free block count of an ART OPEN reply. -/
def openBody (art : Art) (place : Nat) (shape : Shape) : List Byte :=
  put32 shape.size ++ put16 shape.blocks ++ put16 (freeBlocks (openEntry art place shape))

/-- R181: the checks of ART OPEN that read the store. -/
def artOpenAt (place : Nat) (shape : Shape) (s : State) : Answer :=
  match otherOpen s.art place with
  | some other => .refuseWith s .wrongState (placeName other)
  | none =>
    if captureUses s.groups place then .refuse s .inUse
    else if freeBlocks s.art + blocksAt s.art place < shape.blocks then .refuse s .full
    else .done { s with art := openEntry s.art place shape } (openBody s.art place shape)

/-- R181: ART OPEN. -/
def artOpen (b : List Byte) (s : State) : Answer :=
  if b.length < 2 then .refuse s .badLength
  else match artPlace (u8 b 0) (u8 b 1) with
    | none => .refuse s .badField
    | some place =>
      if b.length ≠ (if u8 b 0 = 0 then 33 else 9) then .refuse s .badLength
      else if !(readShape b).good then .refuse s .badField
      else artOpenAt place (readShape b) s

/-- ART OPEN sent to the part. -/
def execArtOpen (body : List Byte) (s : State) : Host.Outcome State Fault Refusal := .next (sendCommand 0xA0 artOpen body s)

/-- R182: the OPEN entry at a place. -/
def openAt (art : Art) (place : Nat) : Option ArtEntry :=
  match Table.find? art place with
  | some e => if e.ready then none else some e
  | none => none

/-- R182: an entry with more content. -/
def ArtEntry.append (data : List Byte) (e : ArtEntry) : ArtEntry := { e with content := e.content ++ data }

/-- R182: the data bytes of an ART WRITE body. -/
def writeData (b : List Byte) : List Byte := b.drop 6

/-- R182: ART WRITE. -/
def artWrite (b : List Byte) (s : State) : Answer :=
  if b.length < 7 ∨ 230 < b.length then .refuse s .badLength
  else match artPlace (u8 b 0) (u8 b 1) with
    | none => .refuse s .badField
    | some place =>
      match openAt s.art place with
      | none => .refuse s .wrongState
      | some e =>
        if u32 b 2 ≠ e.content.length then .refuseWith s .wrongState (put32 e.content.length)
        else if e.shape.size < u32 b 2 + (writeData b).length then .refuse s .badField
        else
          .done { s with art := Table.insert s.art place (e.append (writeData b)) }
            (put32 (e.content.length + (writeData b).length))

/-- ART WRITE sent to the part. -/
def execArtWrite (body : List Byte) (s : State) : Host.Outcome State Fault Refusal := .next (sendCommand 0xA1 artWrite body s)

/-- R183: the upload is whole and its check is right. -/
def ArtEntry.closes (check : Nat) (e : ArtEntry) : Bool :=
  e.content.length == e.shape.size && (crc32 e.content).toNat == check

/-- R183: ART CLOSE. -/
def artClose (b : List Byte) (s : State) : Answer :=
  if b.length ≠ 6 then .refuse s .badLength
  else match artPlace (u8 b 0) (u8 b 1) with
    | none => .refuse s .badField
    | some place =>
      match openAt s.art place with
      | none => .refuse s .wrongState
      | some e =>
        if e.closes (u32 b 2) then
          .done { s with art := Table.insert s.art place { e with ready := true } } (put32 e.shape.size)
        else
          .refuseWith { s with art := Table.erase s.art place } .badCheck (put32 e.content.length)

/-- ART CLOSE sent to the part. -/
def execArtClose (body : List Byte) (s : State) : Host.Outcome State Fault Refusal := .next (sendCommand 0xA2 artClose body s)

/-- R184: ART DROP. -/
def artDrop (b : List Byte) (s : State) : Answer :=
  if b.length ≠ 2 then .refuse s .badLength
  else match artPlace (u8 b 0) (u8 b 1) with
    | none => .refuse s .badField
    | some place =>
      match Table.find? s.art place with
      | none => .refuse s .noEntry
      | some _ =>
        if captureUses s.groups place then .refuse s .inUse
        else .done { s with art := Table.erase s.art place } (put16 (freeBlocks (Table.erase s.art place)))

/-- ART DROP sent to the part. -/
def execArtDrop (body : List Byte) (s : State) : Host.Outcome State Fault Refusal := .next (sendCommand 0xA3 artDrop body s)

/-- R185: state, in use, size, cursor, block count and shape of an entry. -/
def artEntryBody (kind : Nat) (used : Bool) : Option ArtEntry → List Byte
  | none => put8 0 ++ putFlag used ++ put32 0 ++ put32 0 ++ put16 0 ++ shapeBody kind none
  | some e =>
    put8 (if e.ready then 2 else 1) ++ putFlag used ++ put32 e.shape.size ++ put32 e.content.length ++
      put16 e.shape.blocks ++ shapeBody kind (some e.shape)

/-- R185: ART GET. -/
def artGet (b : List Byte) (s : State) : Answer :=
  if b.length ≠ 2 then .refuse s .badLength
  else match artPlace (u8 b 0) (u8 b 1) with
    | none => .refuse s .badField
    | some place =>
      .done s
        (put8 (u8 b 0) ++ put8 (u8 b 1) ++ artEntryBody (u8 b 0) (captureUses s.groups place) (Table.find? s.art place))

/-- ART GET sent to the part. -/
def execArtGet (body : List Byte) (s : State) : Host.Outcome State Fault Refusal := .next (sendCommand 0xA4 artGet body s)

end Sys2Proof.Machine
end

