-- ==== Sys2Proof/Machine/Slots.lean ====
section
/-! DEFINITION. Slots (chapter 3): SLOT PUT, SLOT DROP, SLOT GET and the photo watch. -/

namespace Sys2Proof.Machine

/-- R40, R41: a slot with a new record, or none, and its photo watch reset; the recorded fit outcomes stay (R34). -/
def Slot.rebind (r : Option SlotRecord) (t : Slot) : Slot :=
  { record := r, counter := 0, missing := false, sample := none, fit := t.fit }

/-- R40, R41: bind or free a slot; PHOTO_WATCH is raised if the slot was MISSING (R62). -/
def State.rebindSlot (n : Nat) (r : Option SlotRecord) (s : State) : State :=
  if (s.slot n).missing then (s.putSlot n ((s.slot n).rebind r)).raisePhotoWatch
  else s.putSlot n ((s.slot n).rebind r)

/-- R39, R40: SLOT PUT. -/
def slotPut (b : List Byte) (s : State) : Answer :=
  if b.length ≠ 47 then .refuse s .badLength
  else if !slotFieldsGood b then .refuse s .badField
  else
    .done (s.rebindSlot (u8 b 0) (some (readSlot b)))
      (put8 (u8 b 0) ++ putFlag (s.slot (u8 b 0)).record.isSome ++
        put16 (boundCount (s.rebindSlot (u8 b 0) (some (readSlot b))).slots))

/-- SLOT PUT sent to the part. -/
def execSlotPut (body : List Byte) (s : State) : Host.Outcome State Fault Refusal := .next (sendCommand 0x30 slotPut body s)

/-- R41: SLOT DROP. -/
def slotDrop (b : List Byte) (s : State) : Answer :=
  if b.length ≠ 1 then .refuse s .badLength
  else if (s.slot (u8 b 0)).record = none then .refuse s .noEntry
  else .done (s.rebindSlot (u8 b 0) none) (put16 (boundCount (s.rebindSlot (u8 b 0) none).slots))

/-- SLOT DROP sent to the part. -/
def execSlotDrop (body : List Byte) (s : State) : Host.Outcome State Fault Refusal := .next (sendCommand 0x31 slotDrop body s)

/-- R42: SLOT GET. -/
def slotGet (b : List Byte) (s : State) : Answer :=
  if b.length ≠ 1 then .refuse s .badLength
  else match (s.slot (u8 b 0)).record with
    | none => .refuse s .noEntry
    | some r =>
      .done s (slotBody (u8 b 0) r ++ put16 (s.slot (u8 b 0)).counter ++ putFlag (s.slot (u8 b 0)).missing)

/-- SLOT GET sent to the part. -/
def execSlotGet (body : List Byte) (s : State) : Host.Outcome State Fault Refusal := .next (sendCommand 0x32 slotGet body s)

/-! ## Photo watch (R59 to R61) -/

/-- Black. -/
def black : Colour := { r := 0, g := 0, b := 0 }

/-- The pixel of a stored picture; beyond its width or height, black (R59, R148). -/
def Picture.pixel (p : Picture) (x y : Nat) : Colour :=
  if x < p.geometry.width ∧ y < p.geometry.height then (p.rows.getD y []).getD x black else black

/-- R59: the four probe colours of a slot in a completed input frame. -/
def probe (p : Picture) (r : SlotRecord) : Sample :=
  { lt := p.pixel (r.x + r.width / 4) (r.y + r.height / 4)
    rt := p.pixel (r.x + 3 * r.width / 4) (r.y + r.height / 4)
    lb := p.pixel (r.x + r.width / 4) (r.y + 3 * r.height / 4)
    rb := p.pixel (r.x + 3 * r.width / 4) (r.y + 3 * r.height / 4) }

/-- R61: one evaluation, given whether the condition holds and the colours read. -/
def Slot.evaluated (frames : Nat) (holds : Bool) (seen : Sample) (t : Slot) : Slot :=
  if holds then
    let count := if t.counter = frames then frames else t.counter + 1
    { t with counter := count, missing := if count = frames then true else t.missing, sample := some seen }
  else { t with counter := 0, missing := false, sample := some seen }

/-- R59 to R61: what the completion of an input frame does to one slot. -/
def Slot.watch (p : Picture) (t : Slot) : Slot :=
  match t.record with
  | none => t
  | some r =>
    match r.watchMode with
    | .off => t
    | .matching => t.evaluated r.watchFrames ((probe p r).allAgreeWith r.tolerance r.watchColour) (probe p r)
    | .still =>
      match t.sample with
      | none => { t with sample := some (probe p r) }
      | some before => t.evaluated r.watchFrames ((probe p r).agreesWith r.tolerance before) (probe p r)

/-- Some slot's MISSING flag changes at the evaluation. -/
def watchChanges (p : Picture) (slots : List (Nat × Slot)) : Bool :=
  slots.any (fun e => (e.2.watch p).missing != e.2.missing)

/-- R59 to R62: the photo watch at the completion of an input frame. -/
def State.photoWatch (p : Picture) (s : State) : State :=
  if watchChanges p s.slots then
    ({ s with slots := mapSlots (fun _ t => t.watch p) s.slots }).raisePhotoWatch
  else { s with slots := mapSlots (fun _ t => t.watch p) s.slots }

/-- R61: when the feed leaves LOCKED every probe sample is discarded. -/
def dropSamples (slots : List (Nat × Slot)) : List (Nat × Slot) := mapSlots (fun _ t => { t with sample := none }) slots

end Sys2Proof.Machine
end

