-- ==== Sys2Proof/Machine/Feed.lean ====
section
/-! DEFINITION. The feed (chapter 8): FEED PUT, FEED GET, signal found and lost, what a frame accepted or refused leaves, input
frame completion, and the feed's part of a frame start; Machine/InputFrames.lean has the input frame start itself. -/

namespace Sys2Proof.Machine

/-- R150: FEED PUT. -/
def feedPut (b : List Byte) (s : State) : Answer :=
  if b.length ≠ 2 then .refuse s .badLength
  else if u16 b 0 = 0 then .refuse s .badField
  else .done { s with feed := { s.feed with coastLimit := u16 b 0 } } (put16 (u16 b 0))

/-- FEED PUT sent to the part. -/
def execFeedPut (body : List Byte) (s : State) : Host.Outcome State Fault Refusal := .next (sendCommand 0x80 feedPut body s)

/-- The wire value of a feed state (R151). -/
def FeedState.code : FeedState → Nat
  | .dark => 0
  | .training => 1
  | .locked => 2
  | .coasting => 3

/-- R151: the FEED GET body, 15 bytes. -/
def feedBody (f : Feed) : List Byte :=
  put8 f.state.code ++ put16 f.coastLimit ++ put16 (f.geometry.getD ⟨0, 0⟩).width ++
    put16 (f.geometry.getD ⟨0, 0⟩).height ++ put32 f.period ++ put32 f.frameNumber.toNat

/-- R151: FEED GET. -/
def feedGet (b : List Byte) (s : State) : Answer :=
  if b.length ≠ 0 then .refuse s .badLength else .done s (feedBody s.feed)

/-- FEED GET sent to the part. -/
def execFeedGet (body : List Byte) (s : State) : Host.Outcome State Fault Refusal := .next (sendCommand 0x81 feedGet body s)

/-! ## Signal (R143) -/

/-- R143: signal found takes a DARK feed to TRAINING; the next input frame start has no interval (R141). While the reset
pin is asserted only the detection is noted (R164). -/
def Feed.found (held : Bool) (f : Feed) : Feed :=
  if f.state = .dark ∧ held = false then { f with signal := true, markerSeen := false, state := .training, training := .empty }
  else { f with signal := true, markerSeen := false }

/-- The signal is found. -/
def execSignalFound (s : State) : Host.Outcome State Fault Refusal :=
  .next { s with feed := s.feed.found s.resetPin }

/-- R143, R148: signal lost: TRAINING goes to DARK, COASTING loses its training run, LOCKED changes nothing at once; a
frame that has not completed does not complete. -/
def Feed.lose (f : Feed) : Feed :=
  match f.state with
  | .training => { f with signal := false, state := .dark, training := .empty, coast := 0, completes := false }
  | .coasting => { f with signal := false, training := .empty, completes := false }
  | .locked => { f with signal := false, completes := false }
  | .dark => { f with signal := false, completes := false }

/-- R153: packets of the present margin are still read. -/
def Margin.reading (m : Margin) : Bool := !m.stopped && decide (m.read < Config.packetsPerMargin)

/-- R153, R156: a packet cut short is discarded and counted, and reading of the margin stops. -/
def State.cutPacket (s : State) : State := s.stopMargin.badPacket

/-- The signal is lost; a packet being read in LOCKED is cut short (R153, R156). -/
def execSignalLost (cutShort : Bool) (s : State) : Host.Outcome State Fault Refusal :=
  let s1 := if cutShort && s.listening && s.margin.reading then s.cutPacket else s
  .next { s1 with feed := s1.feed.lose }

/-! ## Input frame starts (R141 to R145) -/

/-- FEED_CHANGE member 4, UNSUPPORTED (R144). -/
abbrev unsupportedMember : Word := 16

/-- R145: every entry to COASTING; probe samples are discarded because the feed leaves LOCKED (R61). -/
def State.enterCoasting (s : State) : State :=
  { s with
    feed := { s.feed with state := .coasting, lost := true, coast := 0, training := .empty, completes := false }
    slots := dropSamples s.slots }

/-- R144, R145: the frame is accepted: its picture is the live canvas, it can complete, and its margin is read from its
first packet. -/
def State.accept (f : InputFrame) (s : State) : State :=
  { s with
    feed := { s.feed with live := f.rows, completes := true, markerSeen := true }
    margin := { s.margin with read := 0, stopped := false } }

/-- R144: the members of FEED_CHANGE at a lock. -/
def lockMembers (f : Feed) (g : Geometry) (period : Nat) : Word :=
  (if f.state = .training then (1 : Word) else 0) ||| (if f.state = .coasting then (2 : Word) else 0) |||
    (if f.geometry = some g then (0 : Word) else 4) ||| (if intervalsAgree f.period period then (0 : Word) else 8)

/-- R144: the feed enters LOCKED; the frame start of the lock is Machine/InputFrames.lean's. -/
def State.lock (g : Geometry) (period : Nat) (f : InputFrame) (s : State) : State :=
  State.raiseSet .feedChange (lockMembers s.feed g period)
    (State.accept f
      { s with
        feed := { s.feed with state := .locked, geometry := some g, period := period, coast := 0, training := .empty } })

/-- The training run after an input frame start that does not lock. -/
def State.setTraining (t : Training) (s : State) : State :=
  { s with feed := { s.feed with training := t, markerSeen := true } }

/-- The interval of an input frame start; none if it follows a signal found with no input frame start between (R141). -/
def Feed.intervalOf (f : Feed) (i : Nat) : Option Nat := if f.markerSeen then some i else none

/-- R142: an interval that a run of 1 accepts. -/
def firstIntervalGood (interval : Option Nat) : Bool :=
  match interval with
  | some i => intervalSupported i
  | none => false

/-- R142: an interval that completes a run with a period. -/
def secondIntervalGood (period : Nat) (interval : Option Nat) : Bool :=
  match interval with
  | some i => intervalSupported i && intervalsAgree period i
  | none => false

/-- R145: the lock accepts a frame. -/
def Feed.agrees (f : Feed) (i : InputFrame) : Bool :=
  f.geometry == some ⟨i.width, i.height⟩ && f.markerSeen && intervalsAgree f.period i.interval

/-! ## Input frame completion (R148, R59) -/

/-- R148: the frame can complete: it was accepted, the feed is still LOCKED and its last row has been received. -/
def Feed.canComplete (f : Feed) : Bool :=
  f.state == .locked && f.completes && decide (f.live.length = (f.geometry.getD ⟨0, 0⟩).height)

/-- The picture of the live frame. -/
def Feed.livePicture (f : Feed) : Picture := { geometry := f.geometry.getD ⟨0, 0⟩, rows := f.live }

/-- R148: the frame becomes the last good frame, and the photo watch runs. -/
def State.completeFrame (s : State) : State :=
  State.photoWatch s.feed.livePicture
    { s with feed := { s.feed with lastGood := some s.feed.livePicture, completes := false } }

/-- R148: an input frame completes. -/
def execInputFrameComplete (s : State) : Host.Outcome State Fault Refusal :=
  .next (if s.feed.canComplete then s.completeFrame else s)

/-- R61: the completion makes the slot MISSING by bringing its counter to its watch frames. -/
def State.watchReaches (n : Nat) (s : State) : Bool :=
  s.feed.canComplete && !(s.slot n).missing && ((s.slot n).watch s.feed.livePicture).missing

/-- R61: the input frame completion at which the slot becomes MISSING (log 4). -/
def execWatchFramesReached (n : Fin 256) (s : State) : Host.Outcome State Fault Refusal :=
  .next (if s.watchReaches n.val then s.completeFrame else s)

/-! ## The feed at a frame start (R146, R147) -/

/-- R147: the coast count passes the coast limit at this frame start. -/
def Feed.coastEnds (f : Feed) : Bool := f.state == .coasting && decide (f.coastLimit < f.coast + 1)

/-- R146, R147: the frame number and the coast count; at the coast limit the feed enters DARK and goes on to TRAINING at
once if the signal is present (R143). -/
def Feed.atFrame (f : Feed) : Feed :=
  if f.coastEnds then
    { f with
      frameNumber := f.frameNumber + 1
      coast := 0
      training := .empty
      state := if f.signal then .training else .dark }
  else if f.state = .coasting then { f with frameNumber := f.frameNumber + 1, coast := f.coast + 1 }
  else { f with frameNumber := f.frameNumber + 1 }

/-- R147, R152: FEED_DARK is raised at the coast limit. -/
def State.feedFrame (s : State) : State :=
  if s.feed.coastEnds then State.raise .feedDark (fun _ => 0) { s with feed := s.feed.atFrame }
  else { s with feed := s.feed.atFrame }

end Sys2Proof.Machine
end

