-- ==== Sys2Proof/Machine/Groups.lean ====
section
/-! DEFINITION. Panel groups, flips and holds (chapter 5): GROUP PUT, GROUP GET, FLIP, HOLD, RELEASE, and the first and second
stages of a group's frame start work. -/

namespace Sys2Proof.Machine

/-- R82: GROUP PUT. -/
def groupPut (b : List Byte) (s : State) : Answer :=
  if b.length ≠ 8 then .refuse s .badLength
  else if !groupFieldsGood b then .refuse s .badField
  else
    let i : Fin 4 := Fin.ofNat 4 (u8 b 0)
    if s.groups[i].flip ≠ .idle then .refuse s .wrongState
    else .done { s with groups := s.groups.set i (parameterise b s.groups[i]) } (put8 i.val)

/-- GROUP PUT sent to the part. -/
def execGroupPut (body : List Byte) (s : State) : Host.Outcome State Fault Refusal := .next (sendCommand 0x50 groupPut body s)

/-- R83: GROUP GET. -/
def groupGet (b : List Byte) (s : State) : Answer :=
  if b.length ≠ 1 then .refuse s .badLength
  else if 4 ≤ u8 b 0 then .refuse s .badField
  else .done s (groupBody s.outputs (Fin.ofNat 4 (u8 b 0)) s.groups[Fin.ofNat 4 (u8 b 0)])

/-- GROUP GET sent to the part. -/
def execGroupGet (body : List Byte) (s : State) : Host.Outcome State Fault Refusal := .next (sendCommand 0x51 groupGet body s)

/-- R88: FLIP. -/
def flipCommand (b : List Byte) (s : State) : Answer :=
  if b.length ≠ 2 then .refuse s .badLength
  else if !setOfFourGood (u8 b 0) ∨ 2 ≤ u8 b 1 then .refuse s .badField
  else
    let set : FourSet := BitVec.ofNat 4 (u8 b 0)
    .done { s with groups := sendFlip set (bankOf (u8 b 1)) s.groups }
      ((List.finRange 4).flatMap (fun i => put8 (flipCodes set (bankOf (u8 b 1)) s.groups i)))

/-- FLIP sent to the part. -/
def execFlip (body : List Byte) (s : State) : Host.Outcome State Fault Refusal := .next (sendCommand 0x52 flipCommand body s)

/-- R105: the command-hold flag of each group of a set. -/
def holdGroups (f : Bool) (set : FourSet) (groups : Vector Group 4) : Vector Group 4 :=
  tab (fun i => if set.getLsbD i.val then groups[i].setCommandHold f else groups[i])

/-- R105: HOLD (yes) and RELEASE (no). -/
def holdOrRelease (f : Bool) (b : List Byte) (s : State) : Answer :=
  if b.length ≠ 1 then .refuse s .badLength
  else if !setOfFourGood (u8 b 0) then .refuse s .badField
  else
    let groups := holdGroups f (BitVec.ofNat 4 (u8 b 0)) s.groups
    .done { s with groups := groups } ((List.finRange 4).flatMap (fun i => put8 groups[i].phase.code))

/-- R105: HOLD. -/
def hold (b : List Byte) (s : State) : Answer := holdOrRelease true b s

/-- HOLD sent to the part. -/
def execHold (body : List Byte) (s : State) : Host.Outcome State Fault Refusal := .next (sendCommand 0x53 hold body s)

/-- R105: RELEASE. -/
def release (b : List Byte) (s : State) : Answer := holdOrRelease false b s

/-- RELEASE sent to the part. -/
def execRelease (body : List Byte) (s : State) : Host.Outcome State Fault Refusal := .next (sendCommand 0x54 release body s)

/-! ## The first stage: the flip machine (R89 to R94) -/

/-- What the first stage does to a group's flip. -/
inductive FlipEvent where
  /-- Nothing ends and nothing executes. -/
  | goesOn
  /-- The flip executes because settle completed or settle frames is 0. -/
  | executes
  /-- The flip executes under FORCE. -/
  | forced
  /-- The flip is abandoned under ABANDON. -/
  | abandoned
  /-- The fade completes. -/
  | fadeCompletes
  deriving DecidableEq, Repr

/-- R90, R101: a count of frames goes up by 1 and stays at 65535. -/
def countFrame (n : Nat) : Nat := if n < Config.frameCountTop then n + 1 else Config.frameCountTop

/-- R93, R94: the shown bank becomes the flip target and the group is IDLE. -/
def Group.complete (g : Group) : Group :=
  { g with shown := g.target.getD g.shown, flip := .idle, target := none, age := 0, settle := 0, fadeStep := 0, fadeLength := 0 }

/-- R93: the flip executes: it completes, or a fade begins. -/
def Group.execute (g : Group) : Group :=
  if g.fadeFrames = 0 then g.complete
  else { g with flip := .fading, age := 0, settle := 0, fadeStep := 1, fadeLength := g.fadeFrames }

/-- R90: the flip is abandoned. -/
def Group.abandon (g : Group) : Group := { g with flip := .idle, target := none, age := 0, settle := 0 }

/-- R90: the timeout applies at this frame start. -/
def Group.timesOut (g : Group) : Bool := decide (g.timeoutFrames ≠ 0 ∧ g.timeoutFrames ≤ countFrame g.age)

/-- R91: a WAITING group whose timeout has not applied, its age counted. -/
def Group.waitStage (ready : Bool) (g : Group) : Group × FlipEvent :=
  if !ready then ({ g with age := countFrame g.age }, .goesOn)
  else if g.settleFrames = 0 then (g.execute, .executes)
  else ({ g with age := countFrame g.age, flip := .settling, settle := g.settleFrames }, .goesOn)

/-- R92: a SETTLING group whose timeout has not applied, its age counted. -/
def Group.settleStage (ready : Bool) (g : Group) : Group × FlipEvent :=
  if !ready then ({ g with age := countFrame g.age, flip := .waiting, settle := 0 }, .goesOn)
  else if g.settle ≤ 1 then (g.execute, .executes)
  else ({ g with age := countFrame g.age, settle := g.settle - 1 }, .goesOn)

/-- R94: a FADING group. -/
def Group.fadeStage (g : Group) : Group × FlipEvent :=
  if g.fadeLength < g.fadeStep + 1 then (g.complete, .fadeCompletes)
  else ({ g with fadeStep := g.fadeStep + 1 }, .goesOn)

/-- R90: the timeout policy. -/
def Group.timeout (g : Group) : Group × FlipEvent :=
  if g.force then (g.execute, .forced) else (g.abandon, .abandoned)

/-- R89 to R94: the first stage. -/
def Group.flipStage (ready : Bool) (g : Group) : Group × FlipEvent :=
  match g.flip with
  | .idle => (g, .goesOn)
  | .waiting => if g.timesOut then g.timeout else g.waitStage ready
  | .settling => if g.timesOut then g.timeout else g.settleStage ready
  | .fading => g.fadeStage

/-- R96: the first stage raises FLIP_DONE: at execution with fade length 0 and at fade completion. -/
def flipDone (after : Group) (e : FlipEvent) : Bool :=
  match e with
  | .executes => after.flip == .idle
  | .forced => after.flip == .idle
  | .fadeCompletes => true
  | .abandoned => false
  | .goesOn => false

/-! ## The second stage: the hold phase (R100 to R104) -/

/-- R101: the hold limit applies at this frame start. -/
def Group.limitApplies (g : Group) : Bool :=
  g.phase == .captured && decide (g.holdLimit ≠ 0 ∧ g.holdLimit ≤ countFrame g.holdAge)

/-- R101: the group draws its capture at this frame start and resolves nothing. -/
def Group.drawsCapture (g : Group) : Bool := g.phase == .captured && !g.limitApplies

/-- R102, R104: the group is FREE and live. -/
def Group.goLive (g : Group) : Group := { g with phase := .free, holdAge := 0, capture := none }

/-- R104: the hold limit clears or disregards every hold source. -/
def Group.endByLimit (g : Group) : Group :=
  ({ g with commandHold := false, disregarded := g.lineHold }).goLive

/-- R100 to R102, R104: the second stage; live is the view the group resolves with its shown bank. -/
def Group.holdStage (live : FrameView) (g : Group) : Group :=
  match g.phase with
  | .free => g
  | .captureDue => if g.flip = .idle then { g with phase := .captured, holdAge := 0, capture := some live } else g
  | .captured => if g.limitApplies then g.endByLimit else { g with holdAge := countFrame g.holdAge }
  | .releaseDue => g.goLive

/-- R103: a FREE and IDLE group takes its pending target as a fresh flip request. -/
def Group.takePending (g : Group) : Group :=
  if g.phase = .free ∧ g.flip = .idle then
    match g.pendingTarget with
    | none => g
    | some b => (({ g with pendingTarget := none }).request b).1
  else g

end Sys2Proof.Machine
end

