-- ==== Sys2Proof/Machine/Outputs.lean ====
section
/-! DEFINITION. Panel outputs (chapter 7): OUTPUT PUT, OUTPUT GET, PANEL RELINK, the link states at a frame start and at an
ability word, panel packets and unknown units on the return lanes, and relays to the panels (section 10.3). -/

namespace Sys2Proof.Machine

/-- R123: what an OUTPUT PUT does to the record and the link record, in the first case that applies. -/
def Output.rewritten (b : List Byte) (o : Output) : Output :=
  let n := recordOutput b o
  let resized := n.width ≠ o.width ∨ n.height ≠ o.height
  if o.link ≠ .off ∧ n.enabled = false then { n with link := .off }
  else if o.link = .off ∧ n.enabled = true then { n.toOffer with failures := 0, matched := none }
  else if o.link = .failed ∧ resized then { n.toOffer with failures := 0 }
  else if o.link = .up ∧ resized ∧ n.matchesSize n.width n.height = false then { n with link := .misfit }
  else if o.link = .misfit ∧ resized ∧ n.matchesSize n.width n.height = true then { n with link := .up }
  else n

/-- R122, R123: OUTPUT PUT. What the output draws changes at the next frame start (R81, R125): the open frame stays. -/
def outputPut (b : List Byte) (s : State) : Answer :=
  if b.length ≠ 12 then .refuse s .badLength
  else if !outputFieldsGood b then .refuse s .badField
  else
    let k : Fin 4 := Fin.ofNat 4 (u8 b 0)
    let o := s.outputs[k].rewritten b
    .done (s.putOutput k o) (put8 k.val ++ put8 o.link.code)

/-- OUTPUT PUT sent to the part. -/
def execOutputPut (body : List Byte) (s : State) : Host.Outcome State Fault Refusal := .next (sendCommand 0x70 outputPut body s)

/-- R124: OUTPUT GET. -/
def outputGet (b : List Byte) (s : State) : Answer :=
  if b.length ≠ 1 then .refuse s .badLength
  else if 4 ≤ u8 b 0 then .refuse s .badField
  else .done s (outputBody (u8 b 0) s.outputs[Fin.ofNat 4 (u8 b 0)])

/-- OUTPUT GET sent to the part. -/
def execOutputGet (body : List Byte) (s : State) : Host.Outcome State Fault Refusal := .next (sendCommand 0x71 outputGet body s)

/-- R139: a named output that is enabled starts its handshake again; a disabled one is left as it is. -/
def Output.relinked (o : Output) : Output :=
  if o.enabled then
    { o.toOffer with failures := 0, matched := none, down := [], up := [], faultLatch := false, dropLatch := false }
  else o

/-- Change every output, raising PANEL_LINK with those whose link state changes (R137). -/
def State.changeOutputs (f : Fin 4 → Output → Output) (s : State) : State :=
  State.raiseSet .panelLink (fourWord (fun k => (f k s.outputs[k]).link != s.outputs[k].link))
    { s with outputs := tab (fun k => f k s.outputs[k]) }

/-- R139: PANEL RELINK. -/
def panelRelink (b : List Byte) (s : State) : Answer :=
  if b.length ≠ 1 then .refuse s .badLength
  else if !setOfFourGood (u8 b 0) then .refuse s .badField
  else
    let s' := s.changeOutputs (fun k o => if (u8 b 0).testBit k.val then o.relinked else o)
    .done s' ((List.finRange 4).flatMap (fun k => put8 s'.outputs[k].link.code))

/-- PANEL RELINK sent to the part. -/
def execPanelRelink (body : List Byte) (s : State) : Host.Outcome State Fault Refusal := .next (sendCommand 0x72 panelRelink body s)

/-! ## The link at a frame start (R121, R131 to R135, R138) -/

/-- R131: an OFFER output at a frame start. -/
def Output.offerFrame (present : Bool) (o : Output) : Output :=
  if present then
    if Config.plainSilence ≤ o.silence + 1 then { o with silence := o.silence + 1, link := .plain }
    else { o with silence := o.silence + 1 }
  else { o with silence := 0, run := 0, runAbility := none }

/-- R132: a MATCH output at a frame start. -/
def Output.matchFrame (present : Bool) (o : Output) : Output :=
  if present then
    if Config.ackWaitLimit ≤ o.ackWait + 1 then ({ o with ackWait := o.ackWait + 1 }).fail
    else { o with ackWait := o.ackWait + 1 }
  else o.toOffer

/-- R134: an UP or MISFIT output at a frame start. -/
def Output.upFrame (present : Bool) (o : Output) : Output :=
  if present then
    if Config.dropSilence ≤ o.silence + 1 then { o.toOffer with dropLatch := true }
    else { o with silence := o.silence + 1 }
  else { o.toOffer with dropLatch := true }

/-- R130 to R135: the link record at a frame start, its presence sampled. -/
def Output.linkFrame (present : Bool) (o : Output) : Output :=
  match o.link with
  | .off => o
  | .offer => o.offerFrame present
  | .matching => o.matchFrame present
  | .up => o.upFrame present
  | .misfit => o.upFrame present
  | .plain => if present then o else o.toOffer
  | .failed => o

/-- R121, R167: the presence sample is stored for every output, and a return lane is read again. -/
def Output.atFrame (present : Bool) (o : Output) : Output :=
  { o.linkFrame present with presence := present, laneMuted := false }

/-- R138: every output's link work of a frame start. -/
def State.linkOutputs (presence : FourSet) (s : State) : State :=
  s.changeOutputs (fun k o => o.atFrame (presence.getLsbD k.val))

/-! ## Ability words (R129, R131 to R136) -/

/-- R131: the run of an OFFER output after a word. -/
def Output.hearOffer (w : AbilityWord) (o : Output) : Output :=
  if w.ack = true ∨ w.ability.valid = false then { o with silence := 0, run := 0, runAbility := none }
  else if (o.run = 1 ∨ o.run = 2) ∧ o.runAbility = some w.ability then
    if o.run = 2 then
      { o with silence := 0, run := 0, runAbility := none, link := .matching, matched := some w.ability, ackWait := 0 }
    else { o with silence := 0, run := o.run + 1 }
  else { o with silence := 0, run := 1, runAbility := some w.ability }

/-- R132: a MATCH output and a word. -/
def Output.hearMatch (w : AbilityWord) (o : Output) : Output :=
  if w.ack = false then { o with silence := 0 }
  else if w.ability.valid = true ∧ o.matched = some w.ability then
    { o with silence := 0, failures := 0, link := if w.ability.sized o.width o.height then .up else .misfit }
  else ({ o with silence := 0 }).fail

/-- R134, R136: an UP or MISFIT output and a word. -/
def Output.hearUp (w : AbilityWord) (o : Output) : Output :=
  let o1 := { o with silence := 0, faultLatch := o.faultLatch || w.fault }
  if w.ability.valid = true ∧ o.matchesSize w.ability.width w.ability.height = true then o1 else o1.toOffer

/-- R129 to R136: an ability word arrives at an output. -/
def Output.hear (w : AbilityWord) (o : Output) : Output :=
  match o.link with
  | .off => o
  | .failed => o
  | .offer => ({ o with latest := some w }).hearOffer w
  | .matching => ({ o with latest := some w }).hearMatch w
  | .up => ({ o with latest := some w }).hearUp w
  | .misfit => ({ o with latest := some w }).hearUp w
  | .plain => ({ o with latest := some w }).toOffer.hearOffer w

/-- R134: the link is UP or MISFIT, the handshake complete. -/
def Output.linked (o : Output) : Bool := o.link == .up || o.link == .misfit

/-- R136: PANEL_FAULT is raised for a fault flag heard in UP or MISFIT; then the word is handled. -/
def State.hearWord (k : Fin 4) (w : AbilityWord) (s : State) : State :=
  State.putOutput k (s.outputs[k].hear w)
    (State.raiseSet .panelFault (if s.outputs[k].linked && w.fault then member k.val else 0) s)

/-- R164, R167: the return lane of an output is read. -/
def State.laneOpen (k : Fin 4) (s : State) : Bool := !s.resetPin && !s.outputs[k].laneMuted

/-- R129: an ability word with a good check is handled; one with a bad check is no arrival. -/
def execAbilityWord (k : Fin 4) (bytes : List Byte) (s : State) : Host.Outcome State Fault Refusal :=
  .next (match readAbilityWord bytes with
    | none => s
    | some w => if s.laneOpen k then s.hearWord k w else s)

/-! ## Relays (R129, R171, R173, R174) -/

/-- R173: a good panel packet joins the up queue of an UP or MISFIT output, or is dropped when the queue is full. -/
def State.joinUp (k : Fin 4) (p : PanelPacket) (s : State) : State :=
  let o := s.outputs[k]
  if !o.linked then s
  else if o.up.length < Config.upCapacity then { s with outputs := s.outputs.set k { o with up := o.up ++ [p] } }
  else
    State.raiseSet .relayDrop (member k.val)
      { s with outputs := s.outputs.set k { o with upDrops := o.upDrops + 1 } }

/-- R173: a panel packet arrives. -/
def execPanelPacket (k : Fin 4) (bytes : List Byte) (s : State) : Host.Outcome State Fault Refusal :=
  .next (match readPanelPacket bytes with
    | none => s
    | some p => if s.laneOpen k then s.joinUp k p else s)

/-- R167: a unit of unknown kind is discarded with the rest of the lane up to the next frame start. -/
def execUnknownUnit (k : Fin 4) (kind : Byte) (s : State) : Host.Outcome State Fault Refusal :=
  .next (if s.resetPin = true ∨ kind = 1 ∨ kind = 2 then s
    else { s with outputs := s.outputs.set k { s.outputs[k] with laneMuted := true } })

/-- R171: a packet is handed to one output's down queue. -/
def Output.joinDown (packet : List Byte) (o : Output) : Output :=
  if o.link = .up ∧ o.down.length < Config.downCapacity then { o with down := o.down ++ [packet] }
  else { o with downDrops := o.downDrops + 1 }

/-- R171: the packet is dropped for the output. -/
def Output.dropsDown (o : Output) : Bool := !(o.link == .up && decide (o.down.length < Config.downCapacity))

/-- R171, R174: a packet is handed to the outputs of a test, each drop raising RELAY_DROP. -/
def State.relayDown (packet : List Byte) (addressed : Fin 4 → Bool) (s : State) : State :=
  State.raiseSet .relayDrop (fourWord (fun k => addressed k && s.outputs[k].dropsDown))
    { s with outputs := tab (fun k => if addressed k then s.outputs[k].joinDown packet else s.outputs[k]) }

/-- R171: destination 1..4 addresses one output, destination 15 every output that is UP. -/
def State.addressedBy (dest : Nat) (s : State) (k : Fin 4) : Bool :=
  if dest = 15 then s.outputs[k].link == .up else dest == k.val + 1

end Sys2Proof.Machine
end

