-- ==== Sys2Proof/Machine/Items.lean ====
section
/-! DEFINITION. Items and price banks (chapter 1): ITEM PUT, ITEM DROP, ITEM GET, ITEM LIST and PRICE PUT. -/

namespace Sys2Proof.Machine

/-- R7, R8, R78: 1 when the item's merged sold-out changes and its notify, as it stands afterwards, is yes. A record that
did not exist had merged sold-out no. -/
def itemChange (lines : Vector Line 8) (before : Option Item) (after : Item) : Nat :=
  if after.notify && (after.mergedSoldOut lines != (before.map (·.mergedSoldOut lines)).getD false) then 1 else 0

/-- Write one item record, counting the change of its merged sold-out. -/
def State.putItem (code : Nat) (i : Item) (s : State) : State :=
  State.countAvail (itemChange s.lines (Table.find? s.items code) i) { s with items := Table.insert s.items code i }

/-- R6 to R8: ITEM PUT. -/
def itemPut (b : List Byte) (s : State) : Answer :=
  if b.length ≠ 14 then .refuse s .badLength
  else if !itemFieldsGood b then .refuse s .badField
  else match Table.find? s.items (u16 b 0) with
    | some old =>
      .done (s.putItem (u16 b 0) (readItem b old.priceA old.priceB)) (put16 (u16 b 0) ++ putFlag false ++ put16 s.items.length)
    | none =>
      if Config.itemCapacity ≤ s.items.length then .refuse s .full
      else
        .done (s.putItem (u16 b 0) (readItem b none none))
          (put16 (u16 b 0) ++ putFlag true ++ put16 (s.items.length + 1))

/-- ITEM PUT sent to the part. -/
def execItemPut (body : List Byte) (s : State) : Host.Outcome State Fault Refusal := .next (sendCommand 0x10 itemPut body s)

/-- R9: ITEM DROP. -/
def itemDrop (b : List Byte) (s : State) : Answer :=
  if b.length ≠ 2 then .refuse s .badLength
  else if u16 b 0 = 0 then .refuse s .badField
  else match Table.find? s.items (u16 b 0) with
    | none => .refuse s .noEntry
    | some i =>
      .done
        (State.countAvail (if i.notify && i.mergedSoldOut s.lines then 1 else 0)
          { s with items := Table.erase s.items (u16 b 0) })
        (put16 (Table.erase s.items (u16 b 0)).length)

/-- ITEM DROP sent to the part. -/
def execItemDrop (body : List Byte) (s : State) : Host.Outcome State Fault Refusal := .next (sendCommand 0x11 itemDrop body s)

/-- R11: ITEM GET. -/
def itemGet (b : List Byte) (s : State) : Answer :=
  if b.length ≠ 2 then .refuse s .badLength
  else if u16 b 0 = 0 then .refuse s .badField
  else match Table.find? s.items (u16 b 0) with
    | none => .refuse s .noEntry
    | some i => .done s (itemBody s.lines (u16 b 0) i)

/-- ITEM GET sent to the part. -/
def execItemGet (body : List Byte) (s : State) : Host.Outcome State Fault Refusal := .next (sendCommand 0x12 itemGet body s)

/-- R12, R77: more, count and up to 100 codes of a listing that begins with the given codes. -/
def listing (codes : List Nat) : List Byte :=
  putFlag (decide (Config.listLimit < codes.length)) ++ put8 (codes.take Config.listLimit).length ++
    (codes.take Config.listLimit).flatMap put16

/-- The codes of a table from a start code on, in rising order. -/
def codesFrom (start : Nat) (items : List (Nat × Item)) : List Nat :=
  (items.map (·.1)).filter (fun c => decide (start ≤ c))

/-- R12: ITEM LIST. -/
def itemList (b : List Byte) (s : State) : Answer :=
  if b.length ≠ 2 then .refuse s .badLength
  else .done s (listing (codesFrom (u16 b 0) s.items))

/-- ITEM LIST sent to the part. -/
def execItemList (body : List Byte) (s : State) : Host.Outcome State Fault Refusal := .next (sendCommand 0x13 itemList body s)

/-! ## PRICE PUT (R13 to R15) -/

/-- R13: the number of pairs of a body of good length, 1 + 6 n for n from 1 to 39. -/
def pairCount (b : List Byte) : Option Nat :=
  let n := (b.length - 1) / 6
  if b.length = 1 + 6 * n ∧ 1 ≤ n ∧ n ≤ 39 then some n else none

/-- The pairs of a PRICE PUT body: code and price field, in the order sent. -/
def pricePairs (b : List Byte) (n : Nat) : List (Nat × Nat) :=
  (List.range n).map (fun i => (u16 b (1 + 6 * i), u32 b (3 + 6 * i)))

/-- R14: the checks of one pair, given the codes of the pairs before it. -/
def pairFault (items : List (Nat × Item)) (earlier : List Nat) (pair : Nat × Nat) : Option ResultCode :=
  if Table.find? items pair.1 = none ∨ pair.1 = 0 then some .noEntry
  else if !priceGood pair.2 then some .badField
  else if earlier.contains pair.1 then some .conflict
  else none

/-- R14: the index and result of the first pair that fails a check. -/
def firstPairFault (items : List (Nat × Item)) (index : Nat) (earlier : List Nat) :
    List (Nat × Nat) → Option (Nat × ResultCode)
  | [] => none
  | pair :: rest =>
    match pairFault items earlier pair with
    | some r => some (index, r)
    | none => firstPairFault items (index + 1) (pair.1 :: earlier) rest

/-- R15: a price written into bank A, bank B or both, as the bank selector says. -/
def Item.setPrice (selector : Nat) (p : Option Nat) (i : Item) : Item :=
  { i with
    priceA := if selector = 1 then i.priceA else p
    priceB := if selector = 0 then i.priceB else p }

/-- R15: every pair of the batch is applied as one change. -/
def applyPairs (selector : Nat) (pairs : List (Nat × Nat)) (items : List (Nat × Item)) : List (Nat × Item) :=
  items.map (fun e =>
    match Table.find? pairs e.1 with
    | some n => (e.1, e.2.setPrice selector (priceOf n))
    | none => e)

/-- R13 to R15: PRICE PUT. -/
def pricePut (b : List Byte) (s : State) : Answer :=
  match pairCount b with
  | none => .refuseWith s .badLength (put8 255)
  | some n =>
    if 3 ≤ u8 b 0 then .refuseWith s .badField (put8 255)
    else match firstPairFault s.items 0 [] (pricePairs b n) with
      | some f => .refuseWith s f.2 (put8 f.1)
      | none => .done { s with items := applyPairs (u8 b 0) (pricePairs b n) s.items } (put8 n)

/-- PRICE PUT sent to the part. -/
def execPricePut (body : List Byte) (s : State) : Host.Outcome State Fault Refusal := .next (sendCommand 0x14 pricePut body s)

end Sys2Proof.Machine
end

