-- ==== Sys2Proof/Machine/Stock.lean ====
section
/-! DEFINITION. Availability and stock lines (chapter 4): MARK, AVAIL LIST, LINE PUT, LINE GET, sampling and debounce, and the
landing of debounced changes. -/

namespace Sys2Proof.Machine

/-- R76: the three flags of a MARK reply. -/
def soldOutBody (lines : Vector Line 8) (i : Item) : List Byte :=
  putFlag i.soldOut ++ putFlag (i.lineSoldOut lines) ++ putFlag (i.mergedSoldOut lines)

/-- R76: MARK. -/
def mark (b : List Byte) (s : State) : Answer :=
  if b.length ≠ 3 then .refuse s .badLength
  else if u16 b 0 = 0 ∨ 2 ≤ u8 b 2 then .refuse s .badField
  else match Table.find? s.items (u16 b 0) with
    | none => .refuse s .noEntry
    | some i =>
      .done (s.putItem (u16 b 0) { i with soldOut := u8 b 2 == 1 }) (soldOutBody s.lines { i with soldOut := u8 b 2 == 1 })

/-- MARK sent to the part. -/
def execMark (body : List Byte) (s : State) : Host.Outcome State Fault Refusal := .next (sendCommand 0x40 mark body s)

/-- R77: AVAIL LIST. -/
def availList (b : List Byte) (s : State) : Answer :=
  if b.length ≠ 2 then .refuse s .badLength
  else .done s (listing (codesFrom (u16 b 0) (s.items.filter (fun e => e.2.mergedSoldOut s.lines))))

/-- AVAIL LIST sent to the part. -/
def execAvailList (body : List Byte) (s : State) : Host.Outcome State Fault Refusal := .next (sendCommand 0x41 availList body s)

/-- The set with one stock line. -/
def oneLine (i : Fin 8) : LineSet := BitVec.ofNat 8 (2 ^ i.val)

/-- R72: the lines whose effect a LINE PUT withdraws and applies: the line itself while its debounced state is ACTIVE. -/
def withdrawn (i : Fin 8) (l : Line) : LineSet := if l.active then oneLine i else 0

/-- R71, R72: LINE PUT. -/
def linePut (b : List Byte) (s : State) : Answer :=
  if b.length ≠ 8 then .refuse s .badLength
  else if !lineFieldsGood b then .refuse s .badField
  else
    let i : Fin 8 := Fin.ofNat 8 (u8 b 0)
    let l := configureLine b s.lines[i]
    .done (s.landLines (withdrawn i s.lines[i]) (s.lines.set i l)) (put8 i.val ++ putFlag l.inForce)

/-- LINE PUT sent to the part. -/
def execLinePut (body : List Byte) (s : State) : Host.Outcome State Fault Refusal := .next (sendCommand 0x42 linePut body s)

/-- R74: LINE GET. -/
def lineGet (b : List Byte) (s : State) : Answer :=
  if b.length ≠ 1 then .refuse s .badLength
  else if 8 ≤ u8 b 0 then .refuse s .badField
  else
    let l := s.lines[Fin.ofNat 8 (u8 b 0)]
    .done s (lineBody (u8 b 0) l ++ putFlag l.raw ++ putFlag l.active ++ put8 l.run)

/-- LINE GET sent to the part. -/
def execLineGet (body : List Byte) (s : State) : Host.Outcome State Fault Refusal := .next (sendCommand 0x43 lineGet body s)

/-! ## Sampling and debounce at a frame start (R64, R65) -/

/-- R64: the sample disagrees with the debounced state. -/
def Line.disagrees (level : Bool) (l : Line) : Bool := (level == l.activeHigh) != l.active

/-- R65: the sample completes the run: the debounced state changes. -/
def Line.changes (level : Bool) (l : Line) : Bool := l.disagrees level && decide (l.debounce ≤ l.run + 1)

/-- R64, R65: one sample. -/
def Line.sampled (level : Bool) (l : Line) : Line :=
  if l.changes level then { l with raw := level, active := !l.active, run := 0 }
  else if l.disagrees level then { l with raw := level, run := l.run + 1 }
  else { l with raw := level, run := 0 }

/-- The lines after their samples. -/
def sampledLines (levels : LineSet) (lines : Vector Line 8) : Vector Line 8 :=
  tab (fun i => lines[i].sampled (levels.getLsbD i.val))

/-- The lines whose debounced state changes at a frame start. -/
def changedLines (levels : LineSet) (lines : Vector Line 8) : LineSet :=
  let c (i : Fin 8) : Bool := lines[i].changes (levels.getLsbD i.val)
  BitVec.ofBoolListLE [c 0, c 1, c 2, c 3, c 4, c 5, c 6, c 7]

/-- R70: the line's debounced change brings it into force as a GROUP_FLIP line; before is the line before its sample. -/
def Line.flipEdge (level : Bool) (before : Line) : Bool :=
  before.changes level && (before.sampled level).inForce && before.function == .groupFlip

/-- R70: the flip requests of one line. -/
def lineFlip (levels : LineSet) (lines : Vector Line 8) (groups : Vector Group 4) (i : Fin 8) : Vector Group 4 :=
  if lines[i].flipEdge (levels.getLsbD i.val) then sendFlip lines[i].groups lines[i].target groups else groups

/-- R67, R70: the samples of a frame start, and the debounced changes landing as one event: classes and line-hold sets
first, then the flip requests in rising line number. -/
def State.sampleLines (levels : LineSet) (s : State) : State :=
  let landed := s.landLines (changedLines levels s.lines) (sampledLines levels s.lines)
  { landed with groups := (List.finRange 8).foldl (lineFlip levels s.lines) landed.groups }

end Sys2Proof.Machine
end

