-- ==== Sys2Proof/Machine/Formats.lean ====
section
/-! DEFINITION. Price formatting (chapter 2): FORMAT PUT, FORMAT GET, FORMAT MODE, and writing a price as glyphs. -/

namespace Sys2Proof.Machine

/-- R21: FORMAT PUT. -/
def formatPut (b : List Byte) (s : State) : Answer :=
  if b.length ≠ 9 then .refuse s .badLength
  else if !formatFieldsInRange b then .refuse s .badField
  else if formatMarksClash b then .refuse s .badField
  else .done { s with formats := s.formats.set (Fin.ofNat 8 (u8 b 0)) (readFormat b) } (put8 (u8 b 0))

/-- FORMAT PUT sent to the part. -/
def execFormatPut (body : List Byte) (s : State) : Host.Outcome State Fault Refusal := .next (sendCommand 0x20 formatPut body s)

/-- R22: FORMAT GET. -/
def formatGet (b : List Byte) (s : State) : Answer :=
  if b.length ≠ 1 then .refuse s .badLength
  else if 8 ≤ u8 b 0 then .refuse s .badField
  else .done s (formatBody (u8 b 0) s.formats[Fin.ofNat 8 (u8 b 0)])

/-- FORMAT GET sent to the part. -/
def execFormatGet (body : List Byte) (s : State) : Host.Outcome State Fault Refusal := .next (sendCommand 0x21 formatGet body s)

/-- R23: mode and number as FORMAT MODE returns them. -/
def formatModeBody (m : FormatMode) : List Byte := putFlag m.perItem ++ put8 m.number.val

/-- R23: FORMAT MODE. -/
def formatMode (b : List Byte) (s : State) : Answer :=
  if b.length = 0 then .done s (formatModeBody s.formatMode)
  else if b.length ≠ 2 then .refuse s .badLength
  else if 2 ≤ u8 b 0 ∨ 8 ≤ u8 b 1 then .refuse s .badField
  else
    .done { s with formatMode := { perItem := u8 b 0 == 1, number := Fin.ofNat 8 (u8 b 1) } }
      (formatModeBody { perItem := u8 b 0 == 1, number := Fin.ofNat 8 (u8 b 1) })

/-- FORMAT MODE sent to the part. -/
def execFormatMode (body : List Byte) (s : State) : Host.Outcome State Fault Refusal := .next (sendCommand 0x22 formatMode body s)

/-! ## Writing a price (R24, R26 to R31) -/

/-- R24: the format that writes an item's price. -/
def formatFor (formats : Vector Format 8) (mode : FormatMode) (i : Item) : Format :=
  if mode.perItem then formats[i.format] else formats[mode.number]

/-- R26: the decimal digits of a number below 10 to the power fuel, without leading zeros; 0 is the single digit 0. -/
def decimalDigits : Nat → Nat → List Nat
  | 0, n => [n % 10]
  | fuel + 1, n => if n < 10 then [n] else decimalDigits fuel (n / 10) ++ [n % 10]

/-- R26: exactly d digits, leading zeros kept. -/
def paddedDigits : Nat → Nat → List Nat
  | 0, _ => []
  | d + 1, n => paddedDigits d (n / 10) ++ [n % 10]

/-- R27: the glyph of a group mark. -/
def GroupMark.glyph : GroupMark → Option Nat
  | .absent => none
  | .comma => some 21
  | .point => some 20
  | .apostrophe => some 22
  | .thinSpace => some 23

/-- R27: the mark after every digit that has a multiple of three digits, not none, to its right. -/
def groupDigits (mark : Nat) : List Nat → List Nat
  | [] => []
  | d :: rest =>
    if rest.length % 3 = 0 ∧ rest ≠ [] then d :: mark :: groupDigits mark rest else d :: groupDigits mark rest

/-- R26, R27: the major digits with their group marks. -/
def majorGlyphs (f : Format) (p : Nat) : List Nat :=
  let digits := decimalDigits 7 (p / 10 ^ f.decimals.val)
  match f.groupMark.glyph with
  | none => digits
  | some m => groupDigits m digits

/-- R28: the glyph of a decimal mark. -/
def DecimalMark.glyph : DecimalMark → Nat
  | .point => 20
  | .comma => 21

/-- R26, R28: the minor part. -/
def minorGlyphs (f : Format) (p : Nat) : List Nat :=
  let minor := p % 10 ^ f.decimals.val
  if f.decimals = 0 then []
  else if f.dropZeroMinor ∧ minor = 0 then []
  else match f.minorStyle with
    | .inline => f.decimalMark.glyph :: paddedDigits f.decimals.val minor
    | .raised => (paddedDigits f.decimals.val minor).map (· + 10)

/-- R26 to R28: the number, without symbol and gap. -/
def numberGlyphs (f : Format) (p : Nat) : List Nat := majorGlyphs f p ++ minorGlyphs f p

/-- R29: the thin space between symbol and number. -/
def gapGlyphs (f : Format) : List Nat := if f.symbolGap then [23] else []

/-- R29: the whole sequence. -/
def priceGlyphs (f : Format) (p : Nat) : List Nat :=
  if f.symbol = 0 then numberGlyphs f p
  else match f.symbolPlace with
    | .before => [24 + f.symbol.val] ++ gapGlyphs f ++ numberGlyphs f p
    | .after => numberGlyphs f p ++ gapGlyphs f ++ [24 + f.symbol.val]

/-- R30: the width of a glyph sequence in a set with the given advances. -/
def sequenceWidth (advances : List Nat) (glyphs : List Nat) : Nat := (glyphs.map (fun g => advances.getD g 0)).sum

/-- R31, case 4: the number of dashes that fit, at most 3. -/
def dashCount (advances : List Nat) (w : Nat) : Nat := min 3 (w / advances.getD 24 0)

/-- R31: the fit outcome and the glyphs drawn, in a READY set with the given advances. -/
def fitPrice (advances : List Nat) (policy : FitPolicy) (w : Nat) (f : Format) (p : Nat) : FitOutcome × List Nat :=
  if sequenceWidth advances (priceGlyphs f p) ≤ w then (.drawn, priceGlyphs f p)
  else if policy = .trimThenDash ∧ f.symbol ≠ 0 ∧ sequenceWidth advances (numberGlyphs f p) ≤ w then
    (.trimmed, numberGlyphs f p)
  else if 1 ≤ dashCount advances w then (.dashed, List.replicate (dashCount advances w) 24)
  else (.blank, [])

end Sys2Proof.Machine
end

