-- ==== Sys2Proof/Machine/View.lean ====
section
/-! DEFINITION. The frame view (chapter 3): the view of a slot, its treatment, its price and its badge (R48 to R54). -/

namespace Sys2Proof.Machine

/-- R50, R51: what an action draws; a cover whose card is not READY draws the paper colour, or black if the paper is
CLEAR. -/
def drawnAction (art : Art) (r : SlotRecord) : Action → DrawnAction
  | .keep => .nothing
  | .dim l => .dim l
  | .cover k =>
    if (readyCard art k).isSome then .coverCard k
    else .coverFallback (if r.paperClear then ⟨0, 0, 0⟩ else r.paper)

/-- R31, R54: the price of an item drawn in a slot's price field. -/
def drawnPrice (s : State) (r : SlotRecord) (i : Item) (p : Nat) : PriceDraw :=
  match readyGlyphSet s.art r.glyphSet with
  | none => { glyphSet := r.glyphSet, glyphs := [], outcome := .noArt }
  | some g =>
    let fit := fitPrice g.2.1 r.policy r.fieldW (formatFor s.formats s.formatMode i) p
    { glyphSet := r.glyphSet, glyphs := fit.2, outcome := fit.1 }

/-- R50, R52: a treated view: its treatment's action, and the price if the price setting is SHOW; never a badge. -/
def treatedView (s : State) (kind : ViewKind) (r : SlotRecord) (t : Treatment) (price : Option PriceDraw) : SlotView :=
  { kind := kind
    record := r
    action := drawnAction s.art r t.action
    price := if t.hide then none else price
    badge := none }

/-- R53: the badge of a PRICED view, drawn only while its card is READY. -/
def drawnBadge (art : Art) (i : Item) : Option (Fin 63) :=
  match i.badge with
  | none => none
  | some k => if (readyCard art k).isSome then some k else none

/-- R49: the ORPHAN view draws nothing. -/
def orphanView (r : SlotRecord) : SlotView := { kind := .orphan, record := r, action := .nothing, price := none, badge := none }

/-- R48: the view of a BOUND slot whose item has a price in the bank. -/
def presentView (s : State) (missing : Bool) (r : SlotRecord) (i : Item) (p : Nat) : SlotView :=
  if i.mergedSoldOut s.lines then treatedView s .soldOut r r.soldOut (some (drawnPrice s r i p))
  else if missing then treatedView s .noPhoto r r.photoMissing (some (drawnPrice s r i p))
  else
    { kind := .priced, record := r, action := .nothing, price := some (drawnPrice s r i p), badge := drawnBadge s.art i }

/-- R48: the view of a BOUND slot for a bank. -/
def boundView (s : State) (bank : Bank) (missing : Bool) (r : SlotRecord) : SlotView :=
  match Table.find? s.items r.item with
  | none => orphanView r
  | some i =>
    match i.price bank with
    | none => treatedView s .offMenu r r.offMenu none
    | some p => presentView s missing r i p

/-- R48: the view of a slot for a bank; none is VACANT. -/
def slotView (s : State) (bank : Bank) (t : Slot) : Option SlotView :=
  t.record.map (boundView s bank t.missing)

/-- R34: the fit outcome of a view; NONE where no price is drawn. -/
def viewOutcome (v : Option SlotView) : FitOutcome :=
  match v with
  | none => .nothing
  | some w =>
    match w.price with
    | none => .nothing
    | some p => p.outcome

/-- R54: the frame view of a bank: the views of all slots that are not VACANT. -/
def frameView (s : State) (bank : Bank) : FrameView :=
  s.slots.filterMap (fun e => (slotView s bank e.2).map (fun v => (e.1, v)))

end Sys2Proof.Machine
end

