-- ==== Sys2Proof/Machine/Frame.lean ====
section
/-! DEFINITION. The frame start: every block's frame work in order (R146, R138, R89, R125, R67), and the frame starts that the
table names by what comes about at them (log 4). -/

namespace Sys2Proof.Machine

/-! ## The groups (R89, R34, R54, R55) -/

/-- R89: a group after its first stage. -/
def State.flipped (s : State) (g : Fin 4) : Group × FlipEvent := s.groups[g].flipStage (groupReady s.outputs g)

/-- R89: a group after all its work of a frame start: flip machine, hold phase, pending target. -/
def State.groupAfter (s : State) (g : Fin 4) : Group :=
  ((s.flipped g).1.holdStage (frameView s (s.flipped g).1.shown)).takePending

/-- R34: the bank whose outcome is recorded: the one a fade is entering, else the shown bank. -/
def Group.recordedBank (g : Group) : Bank := if g.flip = .fading then g.target.getD g.shown else g.shown

/-- R54, R55: the picture a group resolves live. -/
def livePicture (s : State) (g : Group) : GroupPicture :=
  if g.flip = .fading then
    .fading (frameView s g.shown) (frameView s (g.target.getD g.shown)) g.fadeStep g.fadeLength
  else .single (frameView s g.shown)

/-- R56, R101: the picture a group draws in the frame: its capture, or what it resolves live. -/
def State.pictureOf (s : State) (g : Fin 4) : GroupPicture :=
  if (s.flipped g).1.drawsCapture then .single ((s.flipped g).1.capture.getD []) else livePicture s (s.flipped g).1

/-- R34: a slot's recorded outcome for a group after the frame start; a group that draws its capture records nothing. -/
def State.fitAfter (s : State) (t : Slot) (g : Fin 4) : FitOutcome :=
  if (s.flipped g).1.drawsCapture then t.fit[g]
  else viewOutcome (slotView s (s.flipped g).1.recordedBank t)

/-- R34: FIT_FAULT is raised when an outcome becomes DASHED or BLANK and was some other value before. -/
def becomesFault (before after : FitOutcome) : Bool := (after == .dashed || after == .blank) && before != after

/-- R34: the slots that raise FIT_FAULT, in rising number. -/
def State.fitFaults (s : State) : List Nat :=
  (s.slots.filter (fun e => (List.finRange 4).any (fun g => becomesFault e.2.fit[g] (s.fitAfter e.2 g)))).map (·.1)

/-- R35: FIT_FAULT is raised with each slot. -/
def State.raiseFaults (slots : List Nat) (s : State) : State :=
  slots.foldl (fun s n => s.raise .fitFault (keepLowest n)) s

/-- R89 to R104: every group's work of a frame start, and the recorded fit outcomes. -/
def State.groupsFrame (s : State) : State :=
  State.raiseFaults s.fitFaults
    (State.raiseSet .holdLimit (fourWord (fun g => (s.flipped g).1.limitApplies))
      (State.raiseSet .flipAbandoned (fourWord (fun g => (s.flipped g).2 == .abandoned))
        (State.raiseSet .flipDone (fourWord (fun g => flipDone (s.flipped g).1 (s.flipped g).2))
          { s with
            groups := tab (fun g => s.groupAfter g)
            pictures := tab (fun g => s.pictureOf g)
            slots := mapSlots (fun _ t => { t with fit := tab (fun g => s.fitAfter t g) }) s.slots })))

/-! ## The output frames (R125, R129, R148, R172) -/

/-- R172: the packets an UP output places in the margin of the frame, up to 4. -/
def Output.placed (o : Output) : List (List Byte) := if o.link = .up then o.down.take Config.placedPerFrame else []

/-- R172: the down queue without the packets placed. -/
def Output.afterPlacing (o : Output) : Output :=
  if o.link = .up then { o with down := o.down.drop Config.placedPerFrame } else o

/-- R125: the raster size: the matched native size in MISFIT, else the window size. -/
def Output.raster (o : Output) : Nat × Nat :=
  if o.link = .misfit then
    match o.matched with
    | some a => (a.width, a.height)
    | none => (o.width, o.height)
  else (o.width, o.height)

/-- R125, R167: the frame an enabled output begins; a disabled output sends nothing. -/
def Output.frame (o : Output) : Option OutputFrame :=
  if o.enabled then
    some
      { rasterWidth := o.raster.1
        rasterHeight := o.raster.2
        x := o.x
        y := o.y
        width := o.width
        height := o.height
        group := o.group
        standby := o.standby
        margin := offerWord o ++ o.placed.flatten }
  else none

/-- R125, R148: what the rasters hold: the canvas in LOCKED and COASTING, the standby cards in DARK and TRAINING. -/
def Feed.canvas (f : Feed) : Option Canvas :=
  match f.state with
  | .locked => some { geometry := f.geometry.getD ⟨0, 0⟩, live := f.live, back := f.lastGood }
  | .coasting => some { geometry := f.geometry.getD ⟨0, 0⟩, live := [], back := f.lastGood }
  | .dark => none
  | .training => none

/-- R125, R172: the outputs begin their frames. -/
def State.openFrames (s : State) : State :=
  { s with
    frame := some { canvas := s.feed.canvas, art := s.art, outputs := tab (fun k => s.outputs[k].frame) }
    outputs := tab (fun k => s.outputs[k].afterPlacing) }

/-! ## The frame start (R146) -/

/-- The state in which the groups do their work: the feed and the outputs have done theirs (R138, R147). -/
def State.beforeGroups (pins : FramePins) (s : State) : State := s.feedFrame.linkOutputs pins.presence

/-- R146: a frame start; the stock lines' changes land after every group's work (R67). -/
def State.takeFrame (pins : FramePins) (s : State) : State :=
  (s.beforeGroups pins).groupsFrame.openFrames.sampleLines pins.lines

/-- R164: no frame start is taken while the reset pin is asserted. -/
def State.frameIf (due : Bool) (pins : FramePins) (s : State) : State :=
  if due && !s.resetPin then s.takeFrame pins else s

/-- R146: a frame start. -/
def execFrameStart (pins : FramePins) (s : State) : Host.Outcome State Fault Refusal := .next (s.frameIf true pins)

/-- R65, R67: the frame start at which the line's debounced state changes. -/
def execDebouncedChange (i : Fin 8) (pins : FramePins) (s : State) : Host.Outcome State Fault Refusal :=
  .next (s.frameIf (s.lines[i].changes (pins.lines.getLsbD i.val)) pins)

/-- R147: the frame start at which the coast count passes the coast limit. -/
def execCoastLimit (pins : FramePins) (s : State) : Host.Outcome State Fault Refusal :=
  .next (s.frameIf s.feed.coastEnds pins)

/-- R131: the frame start finds the output in OFFER and takes it to PLAIN. -/
def Output.becomesPlain (present : Bool) (o : Output) : Bool :=
  o.link == .offer && present && decide (Config.plainSilence ≤ o.silence + 1)

/-- R131: the frame start at which an OFFER output goes to PLAIN. -/
def execSilenceToPlain (k : Fin 4) (pins : FramePins) (s : State) : Host.Outcome State Fault Refusal :=
  .next (s.frameIf (s.outputs[k].becomesPlain (pins.presence.getLsbD k.val)) pins)

/-- R132: the frame start finds the output in MATCH and its acknowledge wait reaches 30. -/
def Output.ackWaitFails (present : Bool) (o : Output) : Bool :=
  o.link == .matching && present && decide (Config.ackWaitLimit ≤ o.ackWait + 1)

/-- R132: the frame start at which a MATCH output's acknowledge wait is a failure. -/
def execAckWaitFailure (k : Fin 4) (pins : FramePins) (s : State) : Host.Outcome State Fault Refusal :=
  .next (s.frameIf (s.outputs[k].ackWaitFails (pins.presence.getLsbD k.val)) pins)

/-- R134: the frame start finds the output in UP or MISFIT and its silence count reaches 10. -/
def Output.silenceDrops (present : Bool) (o : Output) : Bool :=
  o.linked && present && decide (Config.dropSilence ≤ o.silence + 1)

/-- R134: the frame start at which an UP or MISFIT output drops for silence. -/
def execUpSilenceDrop (k : Fin 4) (pins : FramePins) (s : State) : Host.Outcome State Fault Refusal :=
  .next (s.frameIf (s.outputs[k].silenceDrops (pins.presence.getLsbD k.val)) pins)

/-- What the first stage of the group will do at a frame start with the given pins. -/
def State.flipEventAt (g : Fin 4) (pins : FramePins) (s : State) : FlipEvent := ((s.beforeGroups pins).flipped g).2

/-- R90: the frame start at which the group's timeout applies. -/
def execFlipTimeout (g : Fin 4) (pins : FramePins) (s : State) : Host.Outcome State Fault Refusal :=
  .next (s.frameIf (s.flipEventAt g pins == .abandoned || s.flipEventAt g pins == .forced) pins)

/-- R93: the frame start at which the group's flip executes. -/
def execFlipExecute (g : Fin 4) (pins : FramePins) (s : State) : Host.Outcome State Fault Refusal :=
  .next (s.frameIf (s.flipEventAt g pins == .executes || s.flipEventAt g pins == .forced) pins)

/-- R94: the frame start at which the group's fade completes. -/
def execFadeComplete (g : Fin 4) (pins : FramePins) (s : State) : Host.Outcome State Fault Refusal :=
  .next (s.frameIf (s.flipEventAt g pins == .fadeCompletes) pins)

/-- R104: the frame start at which the group's hold limit applies. -/
def execHoldLimitApplies (g : Fin 4) (pins : FramePins) (s : State) : Host.Outcome State Fault Refusal :=
  .next (s.frameIf ((s.beforeGroups pins).flipped g).1.limitApplies pins)

end Sys2Proof.Machine
end

