-- ==== Sys2Proof/Machine/InputFrames.lean ====
section
/-! DEFINITION. Input frame starts and the missing frame (R141 to R146): training, the lock with its frame start, the check in
LOCKED, and the timed frame start that comes at once when the feed leaves LOCKED. -/

namespace Sys2Proof.Machine

/-- R142, R144: the training run takes an input frame start; the one that completes it locks the feed, and the part then takes
the first frame start of LOCKED within the same event (chapter 95, FEED_LOCK; log 6). -/
def State.train (f : InputFrame) (s : State) : State :=
  let g : Geometry := ⟨f.width, f.height⟩
  let interval := s.feed.intervalOf f.interval
  if !g.supported then State.raiseSet .feedChange unsupportedMember (s.setTraining .empty)
  else match s.feed.training with
    | .empty => s.setTraining (.one g)
    | .one g0 =>
      if g0 = g ∧ firstIntervalGood interval = true then s.setTraining (.two g f.interval) else s.setTraining (.one g)
    | .two g0 period =>
      if g0 = g ∧ secondIntervalGood period interval = true then (s.lock g period f).frameIf true f.pins
      else s.setTraining (.one g)

/-- R145, R146: a discarded frame takes the feed to COASTING; the first timed frame start comes at once if one locked period
has already passed since the latest frame start (log 26). -/
def State.discardFrame (f : InputFrame) (s : State) : State :=
  State.frameIf f.overdue f.pins { s.enterCoasting with feed := { s.enterCoasting.feed with markerSeen := true } }

/-- R145: an input frame start in LOCKED. -/
def State.checkFrame (f : InputFrame) (s : State) : State := if s.feed.agrees f then s.accept f else s.discardFrame f

/-- R141: an input frame start; it is ignored in DARK. -/
def execInputFrameStart (f : InputFrame) (s : State) : Host.Outcome State Fault Refusal :=
  .next (match s.feed.state with
    | .dark => s
    | .training => s.train f
    | .coasting => s.train f
    | .locked => s.checkFrame f)

/-- R145, R146: no input frame start within 1.5 locked periods of the latest accepted one: the feed enters COASTING and takes
its first timed frame start at that moment. -/
def execMissingFrame (s : State) (pins : FramePins := ⟨0, 0⟩) : Host.Outcome State Fault Refusal :=
  .next (if s.feed.state = .locked then s.enterCoasting.frameIf true pins else s)

end Sys2Proof.Machine
end

