-- ==== Sys2Proof/Machine/Clock.lean ====
section
/-! DEFINITION. Daypart clock and schedule (chapter 6): CLOCK SET with its resync, CLOCK GET, SCHEDULE PUT, SCHEDULE DROP,
SCHEDULE GET, and the second tick. -/

namespace Sys2Proof.Machine

/-! ## The second tick (R108 to R110) -/

/-- R108: a RUNNING clock one second on. -/
def Clock.tick (c : Clock) : Clock :=
  if c.second + 1 < Config.daySeconds then { c with second := c.second + 1 }
  else { c with second := 0, day := if c.day < 6 then c.day + 1 else 0 }

/-- R109: the entry fires at the clock's day and second. -/
def Entry.firesAt (c : Clock) (e : Entry) : Bool := e.time == c.second && e.days.getLsbD c.day

/-- R109: the entries that fire, in rising entry number. -/
def firing (c : Clock) (schedule : List (Nat × Entry)) : List (Nat × Entry) := schedule.filter (fun e => e.2.firesAt c)

/-- R109: the flip requests of the entries that fire, one entry after another. -/
def fireEntries (entries : List (Nat × Entry)) (groups : Vector Group 4) : Vector Group 4 :=
  entries.foldl (fun g e => sendFlip e.2.groups e.2.target g) groups

/-- R110: the set of the entries that fire. -/
def entrySet (entries : List (Nat × Entry)) : Word := entries.foldl (fun w e => w ||| member e.1) 0

/-- R108 to R110: the second tick reaches a RUNNING clock. -/
def State.tickClock (s : State) : State :=
  State.raiseSet .scheduleFired (entrySet (firing s.clock.tick s.schedule))
    { s with clock := s.clock.tick, groups := fireEntries (firing s.clock.tick s.schedule) s.groups }

/-- R108: a second tick leaves an UNSET clock as it is; while the reset pin is asserted the clock is held (R164). -/
def execSecondTick (s : State) : Host.Outcome State Fault Refusal :=
  .next (if s.clock.running && !s.resetPin then s.tickClock else s)

/-! ## Resync (R112, R113) -/

/-- R112: an instant of the week in seconds from the start of day 0. -/
def instant (day second : Nat) : Nat := day * Config.daySeconds + second

/-- R112: how far back through the week an occurrence lies. -/
def backDistance (now occurrence : Nat) : Nat := (now + Config.weekSeconds - occurrence) % Config.weekSeconds

/-- R112: an entry's distance, the smallest of its days. -/
def Entry.distance (now : Nat) (e : Entry) : Nat :=
  (List.range 7).foldl
    (fun best d => if e.days.getLsbD d then min best (backDistance now (instant d e.time)) else best) Config.weekSeconds

/-- R112: of the entries that cover the group, the one with the smallest distance; none if no entry covers it. -/
def chooseEntry (now : Nat) (g : Fin 4) : List (Nat × Entry) → Option (Nat × Entry)
  | [] => none
  | e :: rest =>
    match chooseEntry now g rest with
    | none => if e.2.groups.getLsbD g.val then some e else none
    | some best =>
      if e.2.groups.getLsbD g.val ∧ e.2.distance now ≤ best.2.distance now then some e else some best

/-- R113: the group takes the request of its chosen entry. -/
def resyncGroup (chosen : Option (Nat × Entry)) (g : Group) : Group :=
  match chosen with
  | none => g
  | some e => (g.request e.2.target).1

/-- R113: the two reply fields of a group. -/
def resyncBody (chosen : Option (Nat × Entry)) (g : Group) : List Byte :=
  match chosen with
  | none => put8 255 ++ put8 0
  | some e => put8 e.1 ++ put8 (g.request e.2.target).2.code

/-- R112, R113: the resync from the clock's present value. -/
def resync (s : State) : Answer :=
  let chosen (g : Fin 4) := chooseEntry (instant s.clock.day s.clock.second) g s.schedule
  .done { s with groups := tab (fun g => resyncGroup (chosen g) s.groups[g]) }
    ((List.finRange 4).flatMap (fun g => resyncBody (chosen g) s.groups[g]))

/-- R111: CLOCK SET. -/
def clockSet (b : List Byte) (s : State) : Answer :=
  if b.length = 0 then (if s.clock.running then resync s else .refuse s .wrongState)
  else if b.length ≠ 5 then .refuse s .badLength
  else if 7 ≤ u8 b 0 ∨ Config.daySeconds ≤ u32 b 1 then .refuse s .badField
  else resync { s with clock := { running := true, day := u8 b 0, second := u32 b 1 } }

/-- CLOCK SET sent to the part. -/
def execClockSet (body : List Byte) (s : State) : Host.Outcome State Fault Refusal := .next (sendCommand 0x60 clockSet body s)

/-- R115: state, day and second. -/
def clockBody (c : Clock) : List Byte := putFlag c.running ++ put8 c.day ++ put32 c.second

/-- R115: CLOCK GET. -/
def clockGet (b : List Byte) (s : State) : Answer :=
  if b.length ≠ 0 then .refuse s .badLength else .done s (clockBody s.clock)

/-- CLOCK GET sent to the part. -/
def execClockGet (body : List Byte) (s : State) : Host.Outcome State Fault Refusal := .next (sendCommand 0x61 clockGet body s)

/-! ## Schedule entries (R117 to R120) -/

/-- R117: the lowest in-use entry, other than the one being written, that the new entry conflicts with. -/
def conflictWith (n : Nat) (e : Entry) (schedule : List (Nat × Entry)) : Option Nat :=
  (schedule.find? (fun f => f.1 != n && e.conflicts f.2)).map (·.1)

/-- R117, R118: SCHEDULE PUT. -/
def schedulePut (b : List Byte) (s : State) : Answer :=
  if b.length ≠ 8 then .refuse s .badLength
  else if !scheduleFieldsGood b then .refuse s .badField
  else match conflictWith (u8 b 0) (readEntry b) s.schedule with
    | some n => .refuseWith s .conflict (put8 n)
    | none =>
      .done { s with schedule := Table.insert s.schedule (u8 b 0) (readEntry b) }
        (put8 (u8 b 0) ++ put8 (Table.insert s.schedule (u8 b 0) (readEntry b)).length)

/-- SCHEDULE PUT sent to the part. -/
def execSchedulePut (body : List Byte) (s : State) : Host.Outcome State Fault Refusal := .next (sendCommand 0x62 schedulePut body s)

/-- R119: SCHEDULE DROP. -/
def scheduleDrop (b : List Byte) (s : State) : Answer :=
  if b.length ≠ 1 then .refuse s .badLength
  else if 32 ≤ u8 b 0 then .refuse s .badField
  else match Table.find? s.schedule (u8 b 0) with
    | none => .refuse s .noEntry
    | some _ =>
      .done { s with schedule := Table.erase s.schedule (u8 b 0) } (put8 (Table.erase s.schedule (u8 b 0)).length)

/-- SCHEDULE DROP sent to the part. -/
def execScheduleDrop (body : List Byte) (s : State) : Host.Outcome State Fault Refusal := .next (sendCommand 0x63 scheduleDrop body s)

/-- R120: SCHEDULE GET. -/
def scheduleGet (b : List Byte) (s : State) : Answer :=
  if b.length ≠ 1 then .refuse s .badLength
  else if 32 ≤ u8 b 0 then .refuse s .badField
  else match Table.find? s.schedule (u8 b 0) with
    | none => .refuse s .noEntry
    | some e => .done s (entryBody (u8 b 0) e)

/-- SCHEDULE GET sent to the part. -/
def execScheduleGet (body : List Byte) (s : State) : Host.Outcome State Fault Refusal := .next (sendCommand 0x64 scheduleGet body s)

end Sys2Proof.Machine
end

