-- ==== Sys2Proof/Machine/Notices.lean ====
section
/-! DEFINITION. Return lane, notices and the STATUS snapshot (chapter 10): NOTICE PUT, STATUS and the return arbiter. -/

namespace Sys2Proof.Machine

/-! ## NOTICE PUT (R176) -/

/-- R176: a source with a new priority; priority 0 also clears its pending flag and detail. -/
def Notice.prioritised (p : Nat) (n : Notice) : Notice := { priority := p, held := if p = 0 then none else n.held }

/-- R176: NOTICE PUT. -/
def noticePut (b : List Byte) (s : State) : Answer :=
  if b.length ≠ 2 then .refuse s .badLength
  else if u8 b 0 < 3 ∨ 14 < u8 b 0 ∨ 7 < u8 b 1 then .refuse s .badField
  else
    let i : Fin 14 := Fin.ofNat 14 (u8 b 0 - 1)
    let n := s.notices[i].prioritised (u8 b 1)
    .done { s with notices := s.notices.set i n } (put8 (u8 b 0) ++ put8 n.priority ++ putFlag n.held.isSome)

/-- NOTICE PUT sent to the part. -/
def execNoticePut (body : List Byte) (s : State) : Host.Outcome State Fault Refusal := .next (sendCommand 0x91 noticePut body s)

/-! ## STATUS (R177, R178) -/

/-- R177: both relay drop counters of an output. -/
def Output.dropsBody (o : Output) : List Byte := put32 o.downDrops.toNat ++ put32 o.upDrops.toNat

/-- R177: link state and latches of an output. -/
def Output.latchesBody (o : Output) : List Byte := put8 o.link.code ++ putFlag o.dropLatch ++ putFlag o.faultLatch

/-- R177: shown bank, flip state and held of a group. -/
def Group.statusBody (g : Group) : List Byte := put8 g.shown.code ++ put8 g.flip.code ++ putFlag g.holding

/-- R177: the STATUS body, 83 bytes. -/
def statusBody (s : State) : List Byte :=
  put32 s.feed.frameNumber.toNat ++ put8 s.feed.state.code ++ putFlag s.feed.lost ++ put32 s.margin.taken.toNat ++
    put32 s.margin.bad.toNat ++ put32 s.margin.turnedAway.toNat ++ s.outputs.toList.flatMap Output.dropsBody ++
    s.outputs.toList.flatMap Output.latchesBody ++ s.groups.toList.flatMap Group.statusBody ++ clockBody s.clock ++
    put16 (freeBlocks s.art) ++ put8 s.margin.replies.length

/-- R178: the output's latches are cleared. -/
def Output.clearLatches (o : Output) : Output := { o with faultLatch := false, dropLatch := false }

/-- R178: the feed-lost latch and every output's latches are cleared. -/
def State.clearLatches (s : State) : State :=
  { s with feed := { s.feed with lost := false }, outputs := tab (fun k => s.outputs[k].clearLatches) }

/-- R177, R178: STATUS. -/
def status (b : List Byte) (s : State) : Answer :=
  if b.length ≠ 0 then .refuse s .badLength else .done s.clearLatches (statusBody s)

/-- STATUS sent to the part. -/
def execStatus (body : List Byte) (s : State) : Host.Outcome State Fault Refusal := .next (sendCommand 0x90 status body s)

/-! ## The return arbiter (R166, R168 to R170) -/

/-- R166: a return packet: kind, tag, result, length, body and check. -/
def returnPacket (kind tag result : Nat) (body : List Byte) : List Byte :=
  withCheck (put8 kind ++ put8 tag ++ put8 result ++ put8 body.length ++ body)

/-- The lane carries a packet, or nothing, in this return slot. -/
def State.sendReturn (p : Option (List Byte)) (s : State) : State := { s with lane := { s.lane with sent := p } }

/-- R169: the class pointer moves. -/
def State.pointClass (c : ReturnClass) (s : State) : State := { s with lane := { s.lane with classPointer := c } }

/-- R170: the body of a notice, 9 bytes. -/
def noticeBody (priority : Nat) (detail frame : Word) : List Byte :=
  put8 priority ++ put32 detail.toNat ++ put32 frame.toNat

/-- R170: a notice is sent: the source's pending flag and detail clear. -/
def State.sendNotice (i : Fin 14) (detail : Word) (s : State) : State :=
  State.sendReturn
    (some (returnPacket 2 (i.val + 1) 0 (noticeBody s.notices[i].priority detail s.feed.frameNumber)))
    { s with notices := s.notices.set i { s.notices[i] with held := none } }

/-- R170: the better of two pending sources, the later-numbered one second: the higher priority, the lower number at equal
priority. -/
def betterNotice (notices : Vector Notice 14) (i : Fin 14) (best : Option (Fin 14)) : Option (Fin 14) :=
  match best with
  | none => some i
  | some j => if notices[j].priority ≤ notices[i].priority then some i else some j

/-- R170: the pending source to send among the given ones, which are in rising number. -/
def chooseNotice (notices : Vector Notice 14) : List (Fin 14) → Option (Fin 14)
  | [] => none
  | i :: rest =>
    if notices[i].held.isSome then betterNotice notices i (chooseNotice notices rest) else chooseNotice notices rest

/-- R170: the non-severe sources 3..14. -/
def plainSources : List (Fin 14) := [2, 3, 4, 5, 6, 7, 8, 9, 10, 11, 12, 13]

/-- R169: the first output with a packet waiting, searched from the relay pointer in the cyclic order. -/
def chooseRelay (outputs : Vector Output 4) (pointer : Fin 4) : Option (Fin 4) :=
  [pointer, pointer + 1, pointer + 2, pointer + 3].find? (fun k => !outputs[k].up.isEmpty)

/-- R169, 3: the REPLY class sends the oldest reply. -/
def State.serveReply (s : State) : Option State :=
  match s.margin.replies with
  | [] => none
  | r :: rest =>
    some (({ s with margin := { s.margin with replies := rest } }.pointClass .relay).sendReturn
      (some (returnPacket 1 r.code.toNat r.result.code r.body)))

/-- R169, 4: the oldest packet of the chosen up queue is sent and the relay pointer moves past the output. -/
def State.sendRelay (k : Fin 4) (p : PanelPacket) (rest : List PanelPacket) (s : State) : State :=
  State.sendReturn (some (returnPacket 3 k.val p.code.toNat p.body))
    (State.pointClass .notice
      { s with
        outputs := s.outputs.set k { s.outputs[k] with up := rest }
        lane := { s.lane with relayPointer := k + 1 } })

/-- R169, 4: the RELAY class. -/
def State.serveRelay (s : State) : Option State :=
  match chooseRelay s.outputs s.lane.relayPointer with
  | none => none
  | some k =>
    match s.outputs[k].up with
    | [] => none
    | p :: rest => some (s.sendRelay k p rest)

/-- R169, 5: the NOTICE class. -/
def State.serveNotice (s : State) : Option State :=
  match chooseNotice s.notices plainSources with
  | none => none
  | some i => some ((s.pointClass .reply).sendNotice i (s.notices[i].held.getD 0))

/-- R169: one class. -/
def State.serve (c : ReturnClass) (s : State) : Option State :=
  match c with
  | .reply => s.serveReply
  | .relay => s.serveRelay
  | .notice => s.serveNotice

/-- R169, 2: the cyclic order of the classes from the class pointer. -/
def ReturnClass.cycle : ReturnClass → List ReturnClass
  | .reply => [.reply, .relay, .notice]
  | .relay => [.relay, .notice, .reply]
  | .notice => [.notice, .reply, .relay]

/-- R169: the severe notice that is pending, RESTARTED first. -/
def severePending (notices : Vector Notice 14) : Option (Fin 14) :=
  if notices[0].held.isSome then some 0 else if notices[1].held.isSome then some 1 else none

/-- R169: the arbiter's choice for one return slot. -/
def State.arbitrate (s : State) : State :=
  match severePending s.notices with
  | some i => s.sendNotice i (s.notices[i].held.getD 0)
  | none => (s.lane.classPointer.cycle.findSome? (fun c => s.serve c)).getD (s.sendReturn none)

/-- R168: a return slot comes free only while the feed is LOCKED. -/
def execReturnSlot (s : State) : Host.Outcome State Fault Refusal := .next (if s.listening then s.arbitrate else s)

end Sys2Proof.Machine
end

