-- ==== Sys2Proof/Machine/Resets.lean ====
section
/-! DEFINITION. The full reset (R163, R164): RESTART, the reset pin and power-up. -/

namespace Sys2Proof.Machine

/-- R143, R164: the feed when a full reset begins or ends: DARK, and on to TRAINING at once if a signal is present and the
reset pin is not asserted. -/
def resetFeed (signal held : Bool) : Feed :=
  { Feed.reset with signal := signal, state := if signal && !held then .training else .dark }

/-- R163, R164: the full reset: every block takes its reset values; the signal is read from the link and the waiting
commands are outside the part. -/
def State.fullReset (s : State) : State :=
  { State.reset with pending := s.pending, resetPin := s.resetPin, feed := resetFeed s.feed.signal s.resetPin }

/-- R163: RESTART. -/
def restart (b : List Byte) (s : State) : Answer :=
  if b.length ≠ 0 then .refuse s .badLength else ⟨s.fullReset, none⟩

/-- RESTART sent to the part. -/
def execRestart (body : List Byte) (s : State) : Host.Outcome State Fault Refusal := .next (sendCommand 0x01 restart body s)

/-- R164: the reset pin is asserted: every block is held at its reset values. -/
def execResetPinAsserted (s : State) : Host.Outcome State Fault Refusal := .next ({ s with resetPin := true }).fullReset

/-- R164: the reset pin is released: the full reset ends. -/
def execResetPinReleased (s : State) : Host.Outcome State Fault Refusal :=
  .next (if s.resetPin then ({ s with resetPin := false }).fullReset else s)

/-- R164: power-up ends: the same full reset. -/
def execPowerUp (s : State) : Host.Outcome State Fault Refusal := .next s.fullReset

end Sys2Proof.Machine
end

