-- ==== Sys2Proof/Machine/Margin.lean ====
section
/-! DEFINITION. The margin channel (chapter 9): the command index, unknown commands, and reading a margin packet. -/

namespace Sys2Proof.Machine

/-- R165: the command index. -/
def commandEffect (code : Byte) : Option (List Byte → State → Answer) :=
  match code.toNat with
  | 0x01 => some restart
  | 0x10 => some itemPut
  | 0x11 => some itemDrop
  | 0x12 => some itemGet
  | 0x13 => some itemList
  | 0x14 => some pricePut
  | 0x20 => some formatPut
  | 0x21 => some formatGet
  | 0x22 => some formatMode
  | 0x30 => some slotPut
  | 0x31 => some slotDrop
  | 0x32 => some slotGet
  | 0x40 => some mark
  | 0x41 => some availList
  | 0x42 => some linePut
  | 0x43 => some lineGet
  | 0x50 => some groupPut
  | 0x51 => some groupGet
  | 0x52 => some flipCommand
  | 0x53 => some hold
  | 0x54 => some release
  | 0x60 => some clockSet
  | 0x61 => some clockGet
  | 0x62 => some schedulePut
  | 0x63 => some scheduleDrop
  | 0x64 => some scheduleGet
  | 0x70 => some outputPut
  | 0x71 => some outputGet
  | 0x72 => some panelRelink
  | 0x80 => some feedPut
  | 0x81 => some feedGet
  | 0x90 => some status
  | 0x91 => some noticePut
  | 0xA0 => some artOpen
  | 0xA1 => some artWrite
  | 0xA2 => some artClose
  | 0xA3 => some artDrop
  | 0xA4 => some artGet
  | _ => none

/-- R159: a command whose code belongs to no command. -/
def unknown (_ : List Byte) (s : State) : Answer := .refuse s .unknownCommand

/-- R159: an unknown command sent to the part; a code of the index is no unknown command (log 4). -/
def execUnknownCommand (code : Byte) (body : List Byte) (s : State) : Host.Outcome State Fault Refusal :=
  .next (if (commandEffect code).isNone then sendCommand code unknown body s else s)

/-! ## Margin packets (R153, R155 to R158, R161) -/

/-- R157, R161, R171: a packet is taken for relay. -/
def State.takeRelay (dest : Nat) (packet : List Byte) (s : State) : State :=
  State.relayDown packet (fun k => s.addressedBy dest k) s.countTaken

/-- R156: destinations of panels: 1..4 and 15. -/
def relayDestination (dest : Nat) : Bool := decide ((1 ≤ dest ∧ dest ≤ 4) ∨ dest = 15)

/-- R155 to R158: a packet read whole is tested: its check, its destination, and for the part the reply queue. -/
def State.considerPacket (packet : List Byte) (s : State) : State :=
  if !checkGood packet then s.badPacket
  else if u8 packet 0 = 0 then
    considerCommand (packet.getD 1 0) ((commandEffect (packet.getD 1 0)).getD unknown) ((packet.drop 3).take (u8 packet 2)) s
  else if relayDestination (u8 packet 0) then s.takeRelay (u8 packet 0) packet
  else s.badPacket

/-- R153: a packet read whole is counted among the margin's eight, then handled. -/
def State.readWhole (packet : List Byte) (s : State) : State :=
  State.considerPacket packet { s with margin := { s.margin with read := s.margin.read + 1 } }

/-- R153: the bytes where a packet would begin: filler ends the reading, a body length above 240 and a packet cut short
are bad and end it, a packet read whole is handled. Bytes after its check are not read. -/
def State.readPacket (bytes : List Byte) (s : State) : State :=
  if bytes = [] then s
  else if u8 bytes 0 = 255 then s.stopMargin
  else if bytes.length < 3 then s.cutPacket
  else if Config.maxBody < u8 bytes 2 then s.cutPacket
  else if bytes.length < u8 bytes 2 + 5 then s.cutPacket
  else s.readWhole (bytes.take (u8 bytes 2 + 5))

/-- R153, R155: the bytes of a margin packet arrive: nothing of a margin is considered while the feed is not LOCKED, and
nothing is read after the point where reading stopped. -/
def execMarginPacket (bytes : List Byte) (s : State) : Host.Outcome State Fault Refusal :=
  .next (if s.listening && s.margin.reading then s.readPacket bytes else s)

end Sys2Proof.Machine
end

