-- ==== Sys2Proof/Machine/Dispatch.lean ====
section
/-! DEFINITION. The meaning of each command: one arm per row of spec/opcode_table.json. -/

namespace Sys2Proof.Machine

/-- The effect of one command on everything but the queue. -/
def exec (i : Instr) (s : State) : Host.Outcome State Fault Refusal :=
  match i with
  | .restart body => Sys2Proof.Machine.execRestart body s
  | .itemPut body => Sys2Proof.Machine.execItemPut body s
  | .itemDrop body => Sys2Proof.Machine.execItemDrop body s
  | .itemGet body => Sys2Proof.Machine.execItemGet body s
  | .itemList body => Sys2Proof.Machine.execItemList body s
  | .pricePut body => Sys2Proof.Machine.execPricePut body s
  | .formatPut body => Sys2Proof.Machine.execFormatPut body s
  | .formatGet body => Sys2Proof.Machine.execFormatGet body s
  | .formatMode body => Sys2Proof.Machine.execFormatMode body s
  | .slotPut body => Sys2Proof.Machine.execSlotPut body s
  | .slotDrop body => Sys2Proof.Machine.execSlotDrop body s
  | .slotGet body => Sys2Proof.Machine.execSlotGet body s
  | .mark body => Sys2Proof.Machine.execMark body s
  | .availList body => Sys2Proof.Machine.execAvailList body s
  | .linePut body => Sys2Proof.Machine.execLinePut body s
  | .lineGet body => Sys2Proof.Machine.execLineGet body s
  | .groupPut body => Sys2Proof.Machine.execGroupPut body s
  | .groupGet body => Sys2Proof.Machine.execGroupGet body s
  | .flip body => Sys2Proof.Machine.execFlip body s
  | .hold body => Sys2Proof.Machine.execHold body s
  | .release body => Sys2Proof.Machine.execRelease body s
  | .clockSet body => Sys2Proof.Machine.execClockSet body s
  | .clockGet body => Sys2Proof.Machine.execClockGet body s
  | .schedulePut body => Sys2Proof.Machine.execSchedulePut body s
  | .scheduleDrop body => Sys2Proof.Machine.execScheduleDrop body s
  | .scheduleGet body => Sys2Proof.Machine.execScheduleGet body s
  | .outputPut body => Sys2Proof.Machine.execOutputPut body s
  | .outputGet body => Sys2Proof.Machine.execOutputGet body s
  | .panelRelink body => Sys2Proof.Machine.execPanelRelink body s
  | .feedPut body => Sys2Proof.Machine.execFeedPut body s
  | .feedGet body => Sys2Proof.Machine.execFeedGet body s
  | .status body => Sys2Proof.Machine.execStatus body s
  | .noticePut body => Sys2Proof.Machine.execNoticePut body s
  | .artOpen body => Sys2Proof.Machine.execArtOpen body s
  | .artWrite body => Sys2Proof.Machine.execArtWrite body s
  | .artClose body => Sys2Proof.Machine.execArtClose body s
  | .artDrop body => Sys2Proof.Machine.execArtDrop body s
  | .artGet body => Sys2Proof.Machine.execArtGet body s
  | .unknownCommand code body => Sys2Proof.Machine.execUnknownCommand code body s
  | .marginPacket bytes => Sys2Proof.Machine.execMarginPacket bytes s
  | .resetPinAsserted => Sys2Proof.Machine.execResetPinAsserted s
  | .resetPinReleased => Sys2Proof.Machine.execResetPinReleased s
  | .powerUp => Sys2Proof.Machine.execPowerUp s
  | .signalFound => Sys2Proof.Machine.execSignalFound s
  | .signalLost cutShort => Sys2Proof.Machine.execSignalLost cutShort s
  | .inputFrameStart frame => Sys2Proof.Machine.execInputFrameStart frame s
  | .missingFrame pins => Sys2Proof.Machine.execMissingFrame s pins
  | .inputFrameComplete => Sys2Proof.Machine.execInputFrameComplete s
  | .watchFramesReached slot => Sys2Proof.Machine.execWatchFramesReached slot s
  | .frameStart pins => Sys2Proof.Machine.execFrameStart pins s
  | .debouncedChange line pins => Sys2Proof.Machine.execDebouncedChange line pins s
  | .coastLimit pins => Sys2Proof.Machine.execCoastLimit pins s
  | .silenceToPlain output pins => Sys2Proof.Machine.execSilenceToPlain output pins s
  | .ackWaitFailure output pins => Sys2Proof.Machine.execAckWaitFailure output pins s
  | .upSilenceDrop output pins => Sys2Proof.Machine.execUpSilenceDrop output pins s
  | .flipTimeout group pins => Sys2Proof.Machine.execFlipTimeout group pins s
  | .flipExecute group pins => Sys2Proof.Machine.execFlipExecute group pins s
  | .fadeComplete group pins => Sys2Proof.Machine.execFadeComplete group pins s
  | .holdLimitApplies group pins => Sys2Proof.Machine.execHoldLimitApplies group pins s
  | .secondTick => Sys2Proof.Machine.execSecondTick s
  | .abilityWord output bytes => Sys2Proof.Machine.execAbilityWord output bytes s
  | .panelPacket output bytes => Sys2Proof.Machine.execPanelPacket output bytes s
  | .unknownUnit output kind => Sys2Proof.Machine.execUnknownUnit output kind s
  | .returnSlot => Sys2Proof.Machine.execReturnSlot s

end Sys2Proof.Machine
end

