-- ==== Sys2Proof/Machine/Drawing.lean ====
section
/-! DEFINITION. What the open output frame shows: the pixels of the canvas, of a group's composed picture and of each output's
raster, and the bytes of each output's margin (R32, R33, R44 to R56, R125 to R129, R148, R167). They are read from State. -/

namespace Sys2Proof.Machine

/-! ## Blending (R33, R46, R50, R55) -/

/-- The nearest whole value of a quotient, halves rounded up. -/
def nearest (n d : Nat) : Nat := (2 * n + d) / (2 * d)

/-- A colour worked out component by component from two colours. -/
def mixColours (f : Nat → Nat → Nat) (p q : Colour) : Colour :=
  { r := BitVec.ofNat 8 (f p.r.toNat q.r.toNat)
    g := BitVec.ofNat 8 (f p.g.toNat q.g.toNat)
    b := BitVec.ofNat 8 (f p.b.toNat q.b.toNat) }

/-- R33, R46: a colour put over a picture with a coverage or an alpha of 0..255. -/
def blendOver (under top : Colour) (a : Nat) : Colour :=
  mixColours (fun v c => nearest (v * (255 - a) + c * a) 255) under top

/-- R50: DIM with a level. -/
def dimColour (level : Nat) (under : Colour) : Colour := mixColours (fun v _ => v * (8 - level) / 8) under under

/-- R55: fade step k of a fade of F frames. -/
def fadeColour (k F : Nat) (leaving entering : Colour) : Colour :=
  mixColours (fun p q => nearest (p * (F + 1 - k) + q * k) (F + 1)) leaving entering

/-! ## Art (R25, R46, R179) -/

/-- R46: the pixel of a card, of the given width and height, at an offset from its top-left pixel, put over a picture;
beyond the card the picture is unchanged. -/
def overCard (w h : Nat) (pixels : List Byte) (dx dy : Int) (under : Colour) : Colour :=
  if 0 ≤ dx ∧ dx < (w : Int) ∧ 0 ≤ dy ∧ dy < (h : Int) then
    let i := 4 * (dy.toNat * w + dx.toNat)
    blendOver under { r := pixels.getD (i + 1) 0, g := pixels.getD (i + 2) 0, b := pixels.getD (i + 3) 0 } (pixels.getD i 0).toNat
  else under

/-- R25: the first column of a glyph in its set's image. -/
def glyphColumn (advances : List Nat) (glyph : Nat) : Nat := (advances.take glyph).sum

/-- R33: the coverage at a column and row of a drawn glyph sequence, counted from its left end and its top. -/
def sequenceCoverage (advances : List Nat) (image : List Byte) : List Nat → Nat → Nat → Nat
  | [], _, _ => 0
  | g :: rest, col, row =>
    if col < advances.getD g 0 then (image.getD (row * advances.sum + glyphColumn advances g + col) 0).toNat
    else sequenceCoverage advances image rest (col - advances.getD g 0) row

/-! ## One slot (R32, R33, R46, R50 to R53); positions are counted from the slot's top-left pixel -/

/-- R50, R51: the first step, the action. -/
def drawAction (art : Art) (r : SlotRecord) (action : DrawnAction) (x y : Nat) (under : Colour) : Colour :=
  match action with
  | .nothing => under
  | .dim level => dimColour level under
  | .coverFallback colour => colour
  | .coverCard k =>
    match readyCard art k with
    | none => under
    | some c =>
      overCard c.1 c.2.1 c.2.2.2 (x - ((r.width : Int) - c.1) / 2) (y - ((r.height : Int) - c.2.1) / 2) c.2.2.1

/-- R32: where the sequence starts in the box. -/
def sequenceStart (align : Alignment) (w s : Nat) : Nat :=
  match align with
  | .left => 0
  | .right => w - s
  | .centre => (w - s) / 2

/-- R32, R33: the field box at a column and row of it, in a set with the given advances and image. -/
def drawBox (r : SlotRecord) (advances : List Nat) (image : List Byte) (glyphs : List Nat) (col row : Nat)
    (under : Colour) : Colour :=
  let background := if r.paperClear then under else r.paper
  let start := sequenceStart r.align r.fieldW (sequenceWidth advances glyphs)
  if start ≤ col then blendOver background r.ink (sequenceCoverage advances image glyphs (col - start) row) else background

/-- R32, R33, R46: the second step, the price field; no box is drawn in outcome NO_ART. -/
def drawPrice (art : Art) (r : SlotRecord) (price : Option PriceDraw) (x y : Nat) (under : Colour) : Colour :=
  match price with
  | none => under
  | some p =>
    match readyGlyphSet art p.glyphSet with
    | none => under
    | some set =>
      if p.outcome.draws ∧ r.fieldX ≤ x ∧ x < r.fieldX + r.fieldW ∧ r.fieldY ≤ y ∧ y < r.fieldY + set.1 then
        drawBox r set.2.1 set.2.2 p.glyphs (x - r.fieldX) (y - r.fieldY) under
      else under

/-- R53: the third step, the badge. -/
def drawBadge (art : Art) (r : SlotRecord) (badge : Option (Fin 63)) (x y : Nat) (under : Colour) : Colour :=
  match badge with
  | none => under
  | some k =>
    match readyCard art k with
    | none => under
    | some c => overCard c.1 c.2.1 c.2.2.2 ((x : Int) - r.badgeX) ((y : Int) - r.badgeY) under

/-- R46: the three steps of one slot at a pixel of its rectangle. -/
def SlotView.draw (art : Art) (v : SlotView) (x y : Nat) (under : Colour) : Colour :=
  drawBadge art v.record v.badge x y
    (drawPrice art v.record v.price x y (drawAction art v.record v.action x y under))

/-- R44, R45: one slot at a canvas pixel; it draws inside its rectangle alone. -/
def SlotView.drawAt (art : Art) (v : SlotView) (x y : Nat) (under : Colour) : Colour :=
  if v.record.x ≤ x ∧ x < v.record.x + v.record.width ∧ v.record.y ≤ y ∧ y < v.record.y + v.record.height then
    v.draw art (x - v.record.x) (y - v.record.y) under
  else under

/-! ## The composed picture (R44, R45, R55, R148) -/

/-- R148: a canvas pixel: a row received of the live frame, else the last good frame, else black. -/
def Canvas.pixel (c : Canvas) (x y : Nat) : Colour :=
  if y < c.live.length then (c.live.getD y []).getD x black
  else match c.back with
    | some p => p.pixel x y
    | none => black

/-- R45: the slots of a frame view in rising number, each over what the lower ones drew. -/
def FrameView.drawAt (art : Art) (v : FrameView) (x y : Nat) (under : Colour) : Colour :=
  v.foldl (fun c e => e.2.drawAt art x y c) under

/-- R54 to R56: the composed picture of a group at a canvas pixel. -/
def GroupPicture.pixel (art : Art) (canvas : Canvas) (p : GroupPicture) (x y : Nat) : Colour :=
  match p with
  | .single v => FrameView.drawAt art v x y (canvas.pixel x y)
  | .fading leaving entering k F =>
    fadeColour k F (FrameView.drawAt art leaving x y (canvas.pixel x y)) (FrameView.drawAt art entering x y (canvas.pixel x y))

/-! ## What an output sends (R125 to R128, R167) -/

/-- R126, R127: the window placed on the raster; beyond the window or the canvas the raster is black. -/
def OutputFrame.windowPixel (o : OutputFrame) (art : Art) (canvas : Canvas) (p : GroupPicture) (col row : Nat) : Colour :=
  if col < o.width ∧ row < o.height ∧ o.x + col < canvas.geometry.width ∧ o.y + row < canvas.geometry.height then
    p.pixel art canvas (o.x + col) (o.y + row)
  else black

/-- R128: the standby card on a black raster. -/
def OutputFrame.standbyPixel (o : OutputFrame) (art : Art) (col row : Nat) : Colour :=
  match o.standby with
  | none => black
  | some k =>
    match readyCard art k with
    | none => black
    | some c =>
      overCard c.1 c.2.1 c.2.2.2 (col - ((o.rasterWidth : Int) - c.1) / 2) (row - ((o.rasterHeight : Int) - c.2.1) / 2) black

/-- R163, R164: between a full reset and the next frame start an output sends black at its window's size (standby card 0), and
no signal while the reset pin is asserted (log 16). -/
def State.resetPixel (k : Fin 4) (col row : Nat) (s : State) : Option Colour :=
  if s.resetPin = false ∧ s.outputs[k].enabled = true ∧ col < s.outputs[k].width ∧ row < s.outputs[k].height then some black
  else none

/-- R125: the pixel an output sends at a column and row of its raster; none where it sends none. -/
def State.outputPixel (k : Fin 4) (col row : Nat) (s : State) : Option Colour :=
  match s.frame with
  | none => s.resetPixel k col row
  | some f =>
    match f.outputs[k] with
    | none => none
    | some o =>
      if col < o.rasterWidth ∧ row < o.rasterHeight then
        match f.canvas with
        | none => some (o.standbyPixel f.art col row)
        | some canvas => some (o.windowPixel f.art canvas s.pictures[o.group] col row)
      else none

/-- R167: the byte at an offset of an output frame's margin: the offer word and the relayed packets, then FFh filler. The spec
gives the margin's end no place: that the filler is answered at every offset is the model's choice (DESIGN CHOICE, log 27). -/
def State.marginByte (k : Fin 4) (offset : Nat) (s : State) : Option Byte :=
  match s.frame with
  | none => none
  | some f => f.outputs[k].map (fun o => o.margin.getD offset 0xFF)

end Sys2Proof.Machine
end

