-- ==== Sys2Proof/Safety.lean ====
section
/-! DEFINITION. What the statements speak of: when a command is taken, what a reply leaves, which constructor is which command,
and the invariants of the state, one per block. -/

namespace Sys2Proof.Machine

/-! ## Commands and replies (R155, R158, R159, R161, R165) -/

/-- R155: the feed is LOCKED and the reset pin is not asserted. -/
def State.Locked (s : State) : Prop := s.resetPin = false ∧ s.feed.state = .locked

/-- R155, R158: a command that arrives now is taken. -/
def State.Takes (s : State) : Prop := s.Locked ∧ s.margin.replies.length < 32

/-- R159, R161: one command is counted as taken and its reply joins the back of the reply queue; nothing else changes. -/
def State.replied (code : Byte) (result : ResultCode) (body : List Byte) (s : State) : State :=
  { s with
    margin :=
      { s.margin with
        taken := s.margin.taken + 1
        replies := s.margin.replies ++ [{ code := code, result := result, body := body }] } }

/-- R165: the command code and the body that a row of the command set sends; the other rows are events. -/
def commandOf : Instr → Option (Byte × List Byte)
  | .restart b => some (0x01, b)
  | .itemPut b => some (0x10, b)
  | .itemDrop b => some (0x11, b)
  | .itemGet b => some (0x12, b)
  | .itemList b => some (0x13, b)
  | .pricePut b => some (0x14, b)
  | .formatPut b => some (0x20, b)
  | .formatGet b => some (0x21, b)
  | .formatMode b => some (0x22, b)
  | .slotPut b => some (0x30, b)
  | .slotDrop b => some (0x31, b)
  | .slotGet b => some (0x32, b)
  | .mark b => some (0x40, b)
  | .availList b => some (0x41, b)
  | .linePut b => some (0x42, b)
  | .lineGet b => some (0x43, b)
  | .groupPut b => some (0x50, b)
  | .groupGet b => some (0x51, b)
  | .flip b => some (0x52, b)
  | .hold b => some (0x53, b)
  | .release b => some (0x54, b)
  | .clockSet b => some (0x60, b)
  | .clockGet b => some (0x61, b)
  | .schedulePut b => some (0x62, b)
  | .scheduleDrop b => some (0x63, b)
  | .scheduleGet b => some (0x64, b)
  | .outputPut b => some (0x70, b)
  | .outputGet b => some (0x71, b)
  | .panelRelink b => some (0x72, b)
  | .feedPut b => some (0x80, b)
  | .feedGet b => some (0x81, b)
  | .status b => some (0x90, b)
  | .noticePut b => some (0x91, b)
  | .artOpen b => some (0xA0, b)
  | .artWrite b => some (0xA1, b)
  | .artClose b => some (0xA2, b)
  | .artDrop b => some (0xA3, b)
  | .artGet b => some (0xA4, b)
  | .unknownCommand code b => if code ∈ commandCodes then none else some (code, b)
  | _ => none

/-- A margin packet with a right check, byte for byte as it is sent (section 9.1, R154). -/
def marginPacketOf (dest : Nat) (code : Byte) (body : List Byte) : List Byte :=
  withCheck (put8 dest ++ [code] ++ put8 body.length ++ body)

/-- R153: the margin channel, LOCKED, still reads packets of the present margin. -/
def State.Reads (s : State) : Prop := s.Locked ∧ s.margin.stopped = false ∧ s.margin.read < 8

/-- R153: one more packet of the present margin has been read whole. -/
def State.readOne (s : State) : State := { s with margin := { s.margin with read := s.margin.read + 1 } }

/-- R143, R163, R164: the part as a full reset leaves it, the reset pin not asserted, with the commands still waiting and the
signal as it is detected. -/
def State.afterReset (pending : List Instr) (signal : Bool) : State :=
  { State.reset with
    pending := pending
    feed := { Feed.reset with signal := signal, state := if signal then .training else .dark } }

/-! ## Invariants, one per block -/

/-- R1, R3: codes rise, lie in 1..65535, at most 1024 of them, and every price is one. -/
def ItemsOk (items : List (Nat × Item)) : Prop :=
  Table.Rising items ∧ items.length ≤ 1024 ∧
    ∀ e ∈ items, 1 ≤ e.1 ∧ e.1 ≤ 65535 ∧ (∀ p, e.2.priceA = some p → p ≤ 9999999) ∧ (∀ p, e.2.priceB = some p → p ≤ 9999999)

/-- R36, R60, R61: the photo watch of a slot. -/
def Slot.Ok (t : Slot) : Prop :=
  (t.record = none → t.counter = 0 ∧ t.missing = false ∧ t.sample = none) ∧
    ∀ r, t.record = some r →
      1 ≤ r.watchFrames ∧ t.counter ≤ r.watchFrames ∧ (t.missing = true ↔ t.counter = r.watchFrames) ∧
        (r.watchMode = .off → t.counter = 0 ∧ t.sample = none)

/-- R36: slot numbers rise, lie in 0..255, and only slots that differ from their reset values are listed. -/
def SlotsOk (slots : List (Nat × Slot)) : Prop :=
  Table.Rising slots ∧ ∀ e ∈ slots, e.1 < 256 ∧ e.2 ≠ Slot.reset ∧ e.2.Ok

/-- R63, R65: the debounce is 1..15 and the run count stays below it. -/
def Line.Ok (l : Line) : Prop := 1 ≤ l.debounce ∧ l.debounce ≤ 15 ∧ l.run < l.debounce

/-- R80: the flip fields of a group record. -/
def Group.FlipOk (g : Group) : Prop :=
  (g.target = none ↔ g.flip = .idle) ∧ g.target ≠ some g.shown ∧
    (g.flip ≠ .waiting → g.flip ≠ .settling → g.age = 0) ∧ (g.flip ≠ .settling → g.settle = 0) ∧
    (g.flip = .settling → 1 ≤ g.settle ∧ g.settle ≤ g.settleFrames) ∧
    (g.flip ≠ .fading → g.fadeStep = 0 ∧ g.fadeLength = 0) ∧
    (g.flip = .fading → 1 ≤ g.fadeStep ∧ g.fadeStep ≤ g.fadeLength ∧ g.fadeLength ≤ 30)

/-- R80, R85, R97, R98, R101: the hold fields of a group record. -/
def Group.HoldOk (g : Group) : Prop :=
  g.disregarded &&& ~~~g.lineHold = 0 ∧ (g.hasSource = true ↔ g.phase = .captureDue ∨ g.phase = .captured) ∧
    (g.flip = .waiting ∨ g.flip = .settling → g.phase = .free) ∧
    (g.phase = .free → g.flip ≠ .fading → g.pendingTarget = none) ∧
    (g.phase = .free ∨ g.phase = .captureDue → g.capture = none) ∧ (g.capture = none → g.holdAge = 0) ∧
    (g.phase = .captured → g.capture.isSome = true ∧ g.flip = .idle) ∧
    (g.phase = .releaseDue → g.capture.isSome = true → g.flip = .idle)

/-- R80: the ranges of a group record. -/
def Group.RangeOk (g : Group) : Prop :=
  g.age ≤ 65535 ∧ g.holdAge ≤ 65535 ∧ g.settleFrames ≤ 255 ∧ g.timeoutFrames ≤ 65535 ∧ g.fadeFrames ≤ 30 ∧
    g.holdLimit ≤ 65535

/-- R80: a legal group record. -/
def Group.Ok (g : Group) : Prop := g.FlipOk ∧ g.HoldOk ∧ g.RangeOk

/-- R66, R69: a group's line-hold set holds exactly the GROUP_HOLD lines in force that name it. -/
def LineHoldsOk (lines : Vector Line 8) (groups : Vector Group 4) : Prop :=
  ∀ g : Fin 4, groups[g].lineHold = holdingLines lines g

/-- R108: day and second are in range. -/
def Clock.Ok (c : Clock) : Prop := c.day < 7 ∧ c.second < 86400

/-- R116: entry numbers rise and lie in 0..31, entries are legal, and no two in use conflict. -/
def ScheduleOk (schedule : List (Nat × Entry)) : Prop :=
  Table.Rising schedule ∧ (∀ e ∈ schedule, e.1 < 32 ∧ e.2.time < 86400 ∧ e.2.days ≠ 0 ∧ e.2.groups ≠ 0) ∧
    schedule.Pairwise (fun e f => e.2.conflicts f.2 = false)

/-- R121, R123, R130, R133: the link record of an output. -/
def Output.LinkOk (o : Output) : Prop :=
  (o.enabled = true ↔ o.link ≠ .off) ∧ o.failures ≤ 8 ∧ (o.link = .failed → o.failures = 8) ∧
    (o.failures = 8 → o.link = .failed ∨ o.link = .off) ∧ o.run ≤ 2 ∧
    (o.link = .matching → o.matched.isSome = true ∧ o.ackWait < 30) ∧
    (o.link = .up → o.matchesSize o.width o.height = true) ∧
    (o.link = .misfit → o.matched.isSome = true ∧ o.matchesSize o.width o.height = false) ∧
    (o.link = .offer → o.silence < 60) ∧ (o.link = .up ∨ o.link = .misfit → o.silence < 10)

/-- R121, R122: the window of an output. -/
def Output.WindowOk (o : Output) : Prop :=
  1 ≤ o.width ∧ o.width ≤ 3840 ∧ 1 ≤ o.height ∧ o.height ≤ 2160 ∧ o.x + o.width ≤ 7680 ∧ o.y + o.height ≤ 2160

/-- R171, R173: the relay queues of an output. -/
def Output.QueuesOk (o : Output) : Prop := o.down.length ≤ 8 ∧ o.up.length ≤ 4

/-- R142: the training run holds a supported geometry and a supported period. -/
def Training.Ok : Training → Prop
  | .empty => True
  | .one g => g.supported = true
  | .two g period => g.supported = true ∧ intervalSupported period = true

/-- R140 to R148: the feed record. -/
def Feed.Ok (held : Bool) (f : Feed) : Prop :=
  (f.state = .locked ∨ f.state = .coasting → ∃ g, f.geometry = some g ∧ g.supported = true) ∧
    (∀ g, f.geometry = some g → g.supported = true) ∧ f.training.Ok ∧
    (f.state = .dark ∨ f.state = .locked → f.training = .empty) ∧ (f.state ≠ .coasting → f.coast = 0) ∧
    1 ≤ f.coastLimit ∧ f.coastLimit ≤ 65535 ∧ f.coast ≤ f.coastLimit ∧ (f.state = .training → f.signal = true) ∧
    (f.state = .dark → held = false → f.signal = false) ∧ (f.completes = true → f.state = .locked)

/-- R153, R158: the margin channel. -/
def Margin.Ok (m : Margin) : Prop := m.replies.length ≤ 32 ∧ m.read ≤ 8

/-- R175, R176: severe sources have level 8, the others 0..7, and a source with priority 0 is not pending. -/
def NoticesOk (notices : Vector Notice 14) : Prop :=
  notices[0].priority = 8 ∧ notices[1].priority = 8 ∧ (∀ i : Fin 14, 2 ≤ i.val → notices[i].priority ≤ 7) ∧
    ∀ i : Fin 14, notices[i].priority = 0 → notices[i].held = none

/-- R25, R179: the shape suits the place: 29 advances at the places of the glyph sets, a card at the others. -/
def Shape.OkAt (place : Nat) : Shape → Prop
  | .glyphSet _ advances => place < 4 ∧ advances.length = 29
  | .card _ _ _ => 4 ≤ place

/-- R179: an entry that is not EMPTY: a good shape, no more content than its size, and all of it once READY. -/
def ArtEntry.Ok (e : ArtEntry) : Prop :=
  e.shape.good = true ∧ e.content.length ≤ e.shape.size ∧ (e.ready = true → e.content.length = e.shape.size)

/-- R179: places rise and lie below 67, at most one entry is OPEN, and the blocks taken never pass 4096. -/
def ArtOk (art : Art) : Prop :=
  Table.Rising art ∧ (∀ e ∈ art, e.1 < 67 ∧ e.2.Ok ∧ e.2.shape.OkAt e.1) ∧
    (∀ e ∈ art, ∀ f ∈ art, e.2.ready = false → f.2.ready = false → e.1 = f.1) ∧ usedBlocks art ≤ 4096

/-- R57, R184: every art entry that a capture draws from is READY. -/
def CapturesReady (s : State) : Prop :=
  ∀ place : Nat, captureUses s.groups place = true → (readyEntry s.art place).isSome = true

/-- R164: while the reset pin is asserted every block holds its reset values; only the queue of waiting commands and the
detection of the signal go on. -/
def HeldAtReset (s : State) : Prop :=
  s.resetPin = true →
    s = { State.reset with
          pending := s.pending, resetPin := true, feed := { Feed.reset with signal := s.feed.signal } }

end Sys2Proof.Machine
end

