-- ==== Sys2Proof/Certificates/Slice0/Obligations.lean ====
section
/-! DEFINITION. The statements about the model, for the provers. Each docstring names the rules of spec/ it speaks of. -/

open Sys2Proof Sys2Proof.Machine

/-! ## The step, resets and the gate before every command -/

/-- A step takes the command at the front of the queue and runs exec on it with the queue's rest; on an empty queue the part
idles (the model's choice, log 2). -/
def Obligations.StepRunsFront : Prop :=
  (∀ (c : Instr) (rest : List Instr) (s : State),
    step { s with pending := c :: rest } = exec c { s with pending := rest }) ∧
  ∀ s : State, s.pending = [] → step s = .next s

/-- The values after a full reset, as the table of section 9.4 and the chapters give them. The period of 1/60 s is held as
16,666,667 ns (log 9), and the discarding of a return lane's rest ends (the model's choice, log 14). -/
def Obligations.ResetTable : Prop :=
  State.reset.items = [] ∧
  (∀ i : Fin 8, State.reset.formats[i] =
    { decimals := 2, decimalMark := .point, groupMark := .absent, minorStyle := .inline, dropZeroMinor := false, symbol := 0,
      symbolPlace := .before, symbolGap := false }) ∧
  State.reset.formatMode = { perItem := false, number := 0 } ∧
  (∀ n : Nat, State.reset.slot n =
    { record := none, counter := 0, missing := false, sample := none, fit := Vector.replicate 4 .nothing }) ∧
  (∀ i : Fin 8, ∃ raw, State.reset.lines[i] =
    { function := .nothing, activeHigh := false, debounce := 4, stockClass := 0, groups := 0, target := .A, masked := false,
      raw := raw, active := false, run := 0 }) ∧
  (∀ g : Fin 4, State.reset.groups[g] =
    { shown := .A, flip := .idle, target := none, pendingTarget := none, age := 0, settle := 0, fadeStep := 0,
      fadeLength := 0, settleFrames := 2, timeoutFrames := 600, force := false, fadeFrames := 0, holdLimit := 0,
      commandHold := false, lineHold := 0, disregarded := 0, phase := .free, holdAge := 0, capture := none }) ∧
  State.reset.clock = { running := false, day := 0, second := 0 } ∧ State.reset.schedule = [] ∧
  (∀ k : Fin 4, ∃ present, State.reset.outputs[k] =
    { enabled := true, x := k.val * 1920, y := 0, width := 1920, height := 1080, group := 0, standby := none, link := .offer,
      failures := 0, run := 0, runAbility := none, silence := 0, ackWait := 0, matched := none, latest := none,
      presence := present, faultLatch := false, dropLatch := false, down := [], up := [], downDrops := 0, upDrops := 0,
      laneMuted := false }) ∧
  (∃ signal, State.reset.feed =
    { state := .dark, signal := signal, geometry := none, period := 16666667, training := .empty, coast := 0,
      coastLimit := 1800, lost := false, frameNumber := 0, lastGood := none, markerSeen := false, live := [],
      completes := false }) ∧
  State.reset.margin = { read := 0, stopped := false, replies := [], taken := 0, bad := 0, turnedAway := 0 } ∧
  State.reset.lane.classPointer = .reply ∧ State.reset.lane.relayPointer = 0 ∧
  (∀ i : Fin 14, State.reset.notices[i] =
    { priority := if i.val < 2 then 8 else 4, held := if i.val = 0 then some 0 else none }) ∧
  State.reset.art = [] ∧ freeBlocks State.reset.art = 4096

/-- R163, R164, R143: RESTART, the reset pin and power-up give one full reset. -/
def Obligations.FullResetsComplete : Prop :=
  ∀ (b : List Byte) (s : State),
    exec .resetPinAsserted s =
      .next { State.reset with
              pending := s.pending, resetPin := true, feed := { Feed.reset with signal := s.feed.signal } } ∧
    (s.resetPin = true → exec .resetPinReleased s = .next (State.afterReset s.pending s.feed.signal)) ∧
    (s.resetPin = false → exec .powerUp s = .next (State.afterReset s.pending s.feed.signal)) ∧
    (s.Takes → b = [] → exec (.restart b) s = .next (State.afterReset s.pending s.feed.signal)) ∧
    (s.Takes → b ≠ [] → exec (.restart b) s = .next (s.replied 0x01 .badLength []))

/-- R164: while the reset pin is asserted the part holds its reset values; only the pin, power-up and the detection of the
signal act. -/
def Obligations.ResetPinHolds : Prop :=
  ∀ (c : Instr) (s : State), s.resetPin = true → HeldAtReset s →
    c ≠ .resetPinAsserted → c ≠ .resetPinReleased → c ≠ .powerUp → c ≠ .signalFound → (∀ cut, c ≠ .signalLost cut) →
    exec c s = .next s

/-- R149, R155, R168: while the feed is not LOCKED no command is taken, no margin packet is counted and no return slot
comes free. -/
def Obligations.NothingTakenUnlessLocked : Prop :=
  ∀ (c : Instr) (s : State), ¬ s.Locked →
    ((commandOf c).isSome = true ∨ (∃ bytes, c = .marginPacket bytes) ∨ c = .returnSlot) → exec c s = .next s

/-- R158: with 32 replies in the queue every command, RESTART included, is turned away and counted. -/
def Obligations.FullQueueTurnsAway : Prop :=
  ∀ (c : Instr) (code : Byte) (b : List Byte) (s : State), commandOf c = some (code, b) → s.Locked →
    32 ≤ s.margin.replies.length →
    exec c s =
      .next (State.raise .marginFault (addFaults 0 1)
        { s with margin := { s.margin with turnedAway := s.margin.turnedAway + 1 } })

/-- R159, R161, R166: every command taken but a RESTART that resets is counted once and queues exactly one reply, with its
own code and a body that a return packet can carry; a code of no command is answered UNKNOWN_COMMAND and changes nothing. -/
def Obligations.EveryTakenCommandAnswered : Prop :=
  (∀ code : Byte, code ∈ commandCodes ↔
    ∃ (c : Instr) (b : List Byte), commandOf c = some (code, b) ∧ ∀ x y, c ≠ .unknownCommand x y) ∧
  (∀ (code : Byte) (b : List Byte) (s : State), code ∉ commandCodes → s.Takes →
    exec (.unknownCommand code b) s = .next (s.replied code .unknownCommand [])) ∧
  ∀ (c : Instr) (code : Byte) (b : List Byte) (s : State), commandOf c = some (code, b) → s.Takes → ArtOk s.art →
    ¬ (code = 0x01 ∧ b = []) →
    ∃ (t : State) (result : ResultCode) (body : List Byte), exec c s = .next t ∧ body.length ≤ 240 ∧
      t.margin = (s.replied code result body).margin ∧ t.pending = s.pending ∧ t.resetPin = s.resetPin

/-- R160: a command that is refused (neither DONE nor BAD_CHECK) changes nothing but the reply queue and the packets-taken
counter. -/
def Obligations.RefusalChangesNothing : Prop :=
  ∀ (c : Instr) (code : Byte) (b : List Byte) (s t : State) (result : ResultCode) (body : List Byte),
    commandOf c = some (code, b) → s.Takes → exec c s = .next t →
    t.margin.replies = s.margin.replies ++ [{ code := code, result := result, body := body }] →
    result ≠ .done → result ≠ .badCheck → t = s.replied code result body

/-! ## Margin packets (chapter 9) -/

/-- R153, R154, R155, R158, R165: a margin packet for the part, read whole with a right check, is the command its code names;
the byte order of the fields, the check bit by bit, its worked value, and where it stands. -/
def Obligations.GoodPacketIsItsCommand : Prop :=
  (∀ (b : List Byte) (i n : Nat),
    u8 b i = (b.getD i 0).toNat ∧ u16 b i = 256 * u8 b i + u8 b (i + 1) ∧ u32 b i = 65536 * u16 b i + u16 b (i + 2) ∧
    put8 n = [BitVec.ofNat 8 n] ∧ put16 n = [BitVec.ofNat 8 (n / 256), BitVec.ofNat 8 n] ∧
    put32 n = put16 (n / 65536) ++ put16 n) ∧
  crc16 [0x31, 0x32, 0x33, 0x34, 0x35, 0x36, 0x37, 0x38, 0x39] = 0x29B1 ∧ crc16 [] = 0xFFFF ∧
  (∀ (b : List Byte) (byte : Byte),
    crc16 (b ++ [byte]) =
      [7, 6, 5, 4, 3, 2, 1, 0].foldl
        (fun (reg : Half) i => if reg.msb ≠ byte.getLsbD i then (reg <<< 1) ^^^ 0x1021#16 else reg <<< 1) (crc16 b)) ∧
  (∀ b : List Byte, withCheck b = b ++ put16 (crc16 b).toNat ∧
    (checkGood b = true ↔ ∃ l, b = withCheck l)) ∧
  (∀ (dest : Nat) (code : Byte) (b : List Byte),
    marginPacketOf dest code b = withCheck ([BitVec.ofNat 8 dest, code, BitVec.ofNat 8 b.length] ++ b)) ∧
  ∀ (c : Instr) (code : Byte) (b : List Byte) (s : State), commandOf c = some (code, b) → b.length ≤ 240 → s.Reads →
    exec (.marginPacket (marginPacketOf 0 code b)) s = exec c s.readOne

/-- R153, R156, R162: a packet with a bad check, a bad destination, an oversize length or a cut-short body is discarded and
counted; the filler byte ends the reading of a margin without a count, and after the end, or after the eighth packet, nothing
more of the margin is read. -/
def Obligations.MarginReading : Prop :=
  (∀ (bytes : List Byte) (s : State), s.Locked → s.margin.stopped = true ∨ 8 ≤ s.margin.read →
    exec (.marginPacket bytes) s = .next s) ∧
  ∀ (bytes : List Byte) (s : State), s.Reads →
    (1 ≤ bytes.length → u8 bytes 0 = 255 →
      exec (.marginPacket bytes) s = .next { s with margin := { s.margin with stopped := true } }) ∧
    (bytes.length = u8 bytes 2 + 5 → u8 bytes 2 ≤ 240 → u8 bytes 0 ≠ 255 → checkGood bytes = false →
      exec (.marginPacket bytes) s =
        .next (State.raise .marginFault (addFaults 1 0)
          { s with margin := { s.margin with bad := s.margin.bad + 1, read := s.margin.read + 1 } })) ∧
    (bytes.length = u8 bytes 2 + 5 → u8 bytes 2 ≤ 240 → checkGood bytes = true →
      (5 ≤ u8 bytes 0 ∧ u8 bytes 0 ≤ 14) ∨ (16 ≤ u8 bytes 0 ∧ u8 bytes 0 ≤ 254) →
      exec (.marginPacket bytes) s =
        .next (State.raise .marginFault (addFaults 1 0)
          { s with margin := { s.margin with bad := s.margin.bad + 1, read := s.margin.read + 1 } })) ∧
    (3 ≤ bytes.length → 240 < u8 bytes 2 → u8 bytes 0 ≠ 255 →
      exec (.marginPacket bytes) s =
        .next (State.raise .marginFault (addFaults 1 0)
          { s with margin := { s.margin with bad := s.margin.bad + 1, stopped := true } })) ∧
    (1 ≤ bytes.length → bytes.length < 3 ∨ (u8 bytes 2 ≤ 240 ∧ bytes.length < u8 bytes 2 + 5) → u8 bytes 0 ≠ 255 →
      exec (.marginPacket bytes) s =
        .next (State.raise .marginFault (addFaults 1 0)
          { s with margin := { s.margin with bad := s.margin.bad + 1, stopped := true } }))

/-- R157, R171, R174: a packet for a panel is counted as taken and handed whole to the down queues. -/
def Obligations.RelayPacketJoinsDownQueues : Prop :=
  ∀ (dest : Nat) (code : Byte) (b : List Byte) (s : State), (1 ≤ dest ∧ dest ≤ 4) ∨ dest = 15 → b.length ≤ 240 → s.Reads →
    ∃ t : State, exec (.marginPacket (marginPacketOf dest code b)) s = .next t ∧
      t = { s with
            margin := { s.margin with taken := s.margin.taken + 1, read := s.margin.read + 1 }
            outputs := t.outputs
            notices := t.notices } ∧
      (∀ k : Fin 4,
        ((dest = 15 ∧ s.outputs[k].link ≠ .up) ∨ (dest ≠ 15 ∧ dest ≠ k.val + 1) → t.outputs[k] = s.outputs[k]) ∧
        ((dest = 15 ∧ s.outputs[k].link = .up) ∨ (dest ≠ 15 ∧ dest = k.val + 1) →
          (s.outputs[k].link = .up ∧ s.outputs[k].down.length < 8 →
            t.outputs[k] = { s.outputs[k] with down := s.outputs[k].down ++ [marginPacketOf dest code b] }) ∧
          (¬ (s.outputs[k].link = .up ∧ s.outputs[k].down.length < 8) →
            t.outputs[k] = { s.outputs[k] with downDrops := s.outputs[k].downDrops + 1 }))) ∧
      t.notices =
        (State.raiseSet .relayDrop
          (fourWord (fun k => decide (t.outputs[k].downDrops ≠ s.outputs[k].downDrops))) s).notices

/-! ## Items and prices (chapter 1) -/

/-- R6, R7, R8, R78: ITEM PUT, and what looking up and writing an entry of a table is. -/
def Obligations.ItemPutWrites : Prop :=
  (∀ (α : Type) (t : List (Nat × α)) (j k : Nat) (v : α),
    Table.find? ([] : List (Nat × α)) k = none ∧
    Table.find? ((j, v) :: t) k = (if j = k then some v else Table.find? t k) ∧
    (Table.Rising t → Table.Rising (Table.insert t j v) ∧
      Table.find? (Table.insert t j v) k = if j = k then some v else Table.find? t k)) ∧
  ∀ (b : List Byte) (s : State), s.Takes →
    (b.length ≠ 14 → exec (.itemPut b) s = .next (s.replied 0x10 .badLength [])) ∧
    (b.length = 14 →
      u16 b 0 = 0 ∨ 8 ≤ u8 b 10 ∨ (8 ≤ u8 b 11 ∧ u8 b 11 ≤ 0xFE) ∨ 64 ≤ u8 b 12 ∨ 32 ≤ u8 b 13 →
      exec (.itemPut b) s = .next (s.replied 0x10 .badField [])) ∧
    (b.length = 14 → u16 b 0 ≠ 0 → u8 b 10 < 8 → u8 b 11 < 8 ∨ u8 b 11 = 255 → u8 b 12 < 64 → u8 b 13 < 32 →
      (∀ old, Table.find? s.items (u16 b 0) = some old →
        ∃ new : Item, new.priceA = old.priceA ∧ new.priceB = old.priceB ∧ new.format.val = u8 b 10 ∧
          (new.stockClass.map (·.val)).getD 255 = u8 b 11 ∧ (new.badge.map (·.val + 1)).getD 0 = u8 b 12 ∧
          new.soldOut = (u8 b 13).testBit 0 ∧ new.localOnly = (u8 b 13).testBit 1 ∧ new.notify = (u8 b 13).testBit 2 ∧
          exec (.itemPut b) s =
            .next ((State.countAvail
                (if new.notify = true ∧ new.mergedSoldOut s.lines ≠ old.mergedSoldOut s.lines then 1 else 0)
                { s with items := Table.insert s.items (u16 b 0) new }).replied 0x10 .done
              (put16 (u16 b 0) ++ [0] ++ put16 s.items.length))) ∧
      (Table.find? s.items (u16 b 0) = none → 1024 ≤ s.items.length →
        exec (.itemPut b) s = .next (s.replied 0x10 .full [])) ∧
      (Table.find? s.items (u16 b 0) = none → s.items.length < 1024 →
        ∃ new : Item, new.priceA = none ∧ new.priceB = none ∧ new.format.val = u8 b 10 ∧
          (new.stockClass.map (·.val)).getD 255 = u8 b 11 ∧ (new.badge.map (·.val + 1)).getD 0 = u8 b 12 ∧
          new.soldOut = (u8 b 13).testBit 0 ∧ new.localOnly = (u8 b 13).testBit 1 ∧ new.notify = (u8 b 13).testBit 2 ∧
          exec (.itemPut b) s =
            .next ((State.countAvail (if new.notify = true ∧ new.mergedSoldOut s.lines = true then 1 else 0)
                { s with items := Table.insert s.items (u16 b 0) new }).replied 0x10 .done
              (put16 (u16 b 0) ++ [1] ++ put16 (s.items.length + 1)))))

/-- R9, R11: ITEM DROP and ITEM GET. -/
def Obligations.ItemDropAndGet : Prop :=
  ∀ (b : List Byte) (s : State), s.Takes →
    (b.length ≠ 2 → exec (.itemDrop b) s = .next (s.replied 0x11 .badLength [])) ∧
    (b.length = 2 → u16 b 0 = 0 → exec (.itemDrop b) s = .next (s.replied 0x11 .badField [])) ∧
    (b.length = 2 → u16 b 0 ≠ 0 → Table.find? s.items (u16 b 0) = none →
      exec (.itemDrop b) s = .next (s.replied 0x11 .noEntry [])) ∧
    (b.length = 2 → u16 b 0 ≠ 0 → ∀ old, Table.find? s.items (u16 b 0) = some old → Table.Rising s.items →
      ∃ items : List (Nat × Item),
        Table.find? items (u16 b 0) = none ∧ (∀ n, n ≠ u16 b 0 → Table.find? items n = Table.find? s.items n) ∧
        items.length + 1 = s.items.length ∧
        exec (.itemDrop b) s =
          .next ((State.countAvail (if old.notify = true ∧ old.mergedSoldOut s.lines = true then 1 else 0)
              { s with items := items }).replied 0x11 .done (put16 items.length))) ∧
    (b.length ≠ 2 → exec (.itemGet b) s = .next (s.replied 0x12 .badLength [])) ∧
    (b.length = 2 → u16 b 0 = 0 → exec (.itemGet b) s = .next (s.replied 0x12 .badField [])) ∧
    (b.length = 2 → u16 b 0 ≠ 0 → Table.find? s.items (u16 b 0) = none →
      exec (.itemGet b) s = .next (s.replied 0x12 .noEntry [])) ∧
    (b.length = 2 → u16 b 0 ≠ 0 → ∀ i, Table.find? s.items (u16 b 0) = some i →
      exec (.itemGet b) s =
        .next (s.replied 0x12 .done
          (put16 (u16 b 0) ++ put32 (i.priceA.getD 0xFFFFFFFF) ++ put32 (i.priceB.getD 0xFFFFFFFF) ++
            [BitVec.ofNat 8 i.format.val, BitVec.ofNat 8 ((i.stockClass.map (·.val)).getD 255),
              BitVec.ofNat 8 ((i.badge.map (·.val + 1)).getD 0),
              BitVec.ofNat 8 (i.soldOut.toNat + 2 * i.localOnly.toNat + 4 * i.notify.toNat +
                8 * (i.lineSoldOut s.lines).toNat + 16 * (i.mergedSoldOut s.lines).toNat)])))

/-- R12, R77: ITEM LIST and AVAIL LIST return the lowest codes from the start code on, ascending, up to 100. -/
def Obligations.ListingsAscend : Prop :=
  ∀ (b : List Byte) (s : State), s.Takes →
    (b.length ≠ 2 →
      exec (.itemList b) s = .next (s.replied 0x13 .badLength []) ∧
      exec (.availList b) s = .next (s.replied 0x41 .badLength [])) ∧
    (b.length = 2 → Table.Rising s.items →
      ∃ all out : List Nat,
        (∀ n, n ∈ all ↔ u16 b 0 ≤ n ∧ ∃ i, (n, i) ∈ s.items) ∧ all.Pairwise (· < ·) ∧
        (∀ n, n ∈ out ↔ u16 b 0 ≤ n ∧ ∃ i, (n, i) ∈ s.items ∧ i.mergedSoldOut s.lines = true) ∧ out.Pairwise (· < ·) ∧
        exec (.itemList b) s =
          .next (s.replied 0x13 .done
            ([if 100 < all.length then 1 else 0, BitVec.ofNat 8 (min 100 all.length)] ++ (all.take 100).flatMap put16)) ∧
        exec (.availList b) s =
          .next (s.replied 0x41 .done
            ([if 100 < out.length then 1 else 0, BitVec.ofNat 8 (min 100 out.length)] ++ (out.take 100).flatMap put16)))

/-- R13, R14: PRICE PUT is refused with the first fault it meets, and then changes no price. -/
def Obligations.PricePutRefusals : Prop :=
  ∀ (b : List Byte) (s : State), s.Takes →
    ((∀ n, 1 ≤ n → n ≤ 39 → b.length ≠ 1 + 6 * n) →
      exec (.pricePut b) s = .next (s.replied 0x14 .badLength [0xFF])) ∧
    (∀ n, 1 ≤ n → n ≤ 39 → b.length = 1 + 6 * n →
      (3 ≤ u8 b 0 → exec (.pricePut b) s = .next (s.replied 0x14 .badField [0xFF])) ∧
      (u8 b 0 < 3 → ∀ i, i < n →
        (∀ j, j < i →
          Table.find? s.items (u16 b (1 + 6 * j)) ≠ none ∧ u16 b (1 + 6 * j) ≠ 0 ∧
          (u32 b (3 + 6 * j) ≤ 9999999 ∨ u32 b (3 + 6 * j) = 0xFFFFFFFF) ∧
          ∀ h, h < j → u16 b (1 + 6 * h) ≠ u16 b (1 + 6 * j)) →
        (Table.find? s.items (u16 b (1 + 6 * i)) = none ∨ u16 b (1 + 6 * i) = 0 →
          exec (.pricePut b) s = .next (s.replied 0x14 .noEntry [BitVec.ofNat 8 i])) ∧
        (Table.find? s.items (u16 b (1 + 6 * i)) ≠ none → u16 b (1 + 6 * i) ≠ 0 →
          10000000 ≤ u32 b (3 + 6 * i) → u32 b (3 + 6 * i) ≤ 0xFFFFFFFE →
          exec (.pricePut b) s = .next (s.replied 0x14 .badField [BitVec.ofNat 8 i])) ∧
        (Table.find? s.items (u16 b (1 + 6 * i)) ≠ none → u16 b (1 + 6 * i) ≠ 0 →
          u32 b (3 + 6 * i) ≤ 9999999 ∨ u32 b (3 + 6 * i) = 0xFFFFFFFF →
          (∃ h, h < i ∧ u16 b (1 + 6 * h) = u16 b (1 + 6 * i)) →
          exec (.pricePut b) s = .next (s.replied 0x14 .conflict [BitVec.ofNat 8 i]))))

/-- R15: a PRICE PUT whose every pair passes writes every price of the batch, and nothing else. -/
def Obligations.PricePutApplies : Prop :=
  ∀ (b : List Byte) (s : State) (n : Nat), s.Takes → 1 ≤ n → n ≤ 39 → b.length = 1 + 6 * n → u8 b 0 < 3 →
    (∀ j, j < n →
      Table.find? s.items (u16 b (1 + 6 * j)) ≠ none ∧ u16 b (1 + 6 * j) ≠ 0 ∧
      (u32 b (3 + 6 * j) ≤ 9999999 ∨ u32 b (3 + 6 * j) = 0xFFFFFFFF) ∧
      ∀ h, h < j → u16 b (1 + 6 * h) ≠ u16 b (1 + 6 * j)) →
    ∃ items : List (Nat × Item),
      exec (.pricePut b) s = .next (({ s with items := items }).replied 0x14 .done [BitVec.ofNat 8 n]) ∧
      items.map (·.1) = s.items.map (·.1) ∧
      (∀ code, (∀ j, j < n → u16 b (1 + 6 * j) ≠ code) → Table.find? items code = Table.find? s.items code) ∧
      (∀ j, j < n → ∀ old, Table.find? s.items (u16 b (1 + 6 * j)) = some old →
        ∀ p, (p = if u32 b (3 + 6 * j) = 0xFFFFFFFF then none else some (u32 b (3 + 6 * j))) →
        Table.find? items (u16 b (1 + 6 * j)) =
          some { old with
                 priceA := if u8 b 0 = 1 then old.priceA else p
                 priceB := if u8 b 0 = 0 then old.priceB else p })

/-! ## Price formatting (chapter 2) -/

/-- R20, R21: FORMAT PUT, and the codes of the two marks. -/
def Obligations.FormatPutWrites : Prop :=
  (DecimalMark.code .point = 0 ∧ DecimalMark.code .comma = 1 ∧ GroupMark.code .absent = 0 ∧ GroupMark.code .comma = 1 ∧
    GroupMark.code .point = 2 ∧ GroupMark.code .apostrophe = 3 ∧ GroupMark.code .thinSpace = 4) ∧
  ∀ (b : List Byte) (s : State), s.Takes →
    (b.length ≠ 9 → exec (.formatPut b) s = .next (s.replied 0x20 .badLength [])) ∧
    (b.length = 9 →
      8 ≤ u8 b 0 ∨ 4 ≤ u8 b 1 ∨ 2 ≤ u8 b 2 ∨ 5 ≤ u8 b 3 ∨ 2 ≤ u8 b 4 ∨ 2 ≤ u8 b 5 ∨ 5 ≤ u8 b 6 ∨ 2 ≤ u8 b 7 ∨ 2 ≤ u8 b 8 →
      exec (.formatPut b) s = .next (s.replied 0x20 .badField [])) ∧
    (b.length = 9 → 1 ≤ u8 b 1 → (u8 b 3 = 1 ∧ u8 b 2 = 1) ∨ (u8 b 3 = 2 ∧ u8 b 2 = 0) →
      exec (.formatPut b) s = .next (s.replied 0x20 .badField [])) ∧
    (b.length = 9 → u8 b 0 < 8 → u8 b 1 < 4 → u8 b 2 < 2 → u8 b 3 < 5 → u8 b 4 < 2 → u8 b 5 < 2 → u8 b 6 < 5 → u8 b 7 < 2 →
      u8 b 8 < 2 → u8 b 1 = 0 ∨ ¬ ((u8 b 3 = 1 ∧ u8 b 2 = 1) ∨ (u8 b 3 = 2 ∧ u8 b 2 = 0)) →
      ∃ f : Format, f.decimals.val = u8 b 1 ∧ f.decimalMark.code = u8 b 2 ∧ f.groupMark.code = u8 b 3 ∧
        (f.minorStyle = .raised ↔ u8 b 4 = 1) ∧ f.dropZeroMinor.toNat = u8 b 5 ∧ f.symbol.val = u8 b 6 ∧
        (f.symbolPlace = .after ↔ u8 b 7 = 1) ∧ f.symbolGap.toNat = u8 b 8 ∧
        exec (.formatPut b) s =
          .next (({ s with formats := s.formats.set (Fin.ofNat 8 (u8 b 0)) f }).replied 0x20 .done [BitVec.ofNat 8 (u8 b 0)]))

/-- R22, R23: FORMAT GET and FORMAT MODE. -/
def Obligations.FormatGetAndMode : Prop :=
  State.reset.formatMode = { perItem := false, number := 0 } ∧
  ∀ (b : List Byte) (s : State), s.Takes →
    (b.length ≠ 1 → exec (.formatGet b) s = .next (s.replied 0x21 .badLength [])) ∧
    (b.length = 1 → 8 ≤ u8 b 0 → exec (.formatGet b) s = .next (s.replied 0x21 .badField [])) ∧
    (b.length = 1 → ∀ n : Fin 8, u8 b 0 = n.val →
      exec (.formatGet b) s =
        .next (s.replied 0x21 .done
          [BitVec.ofNat 8 n.val, BitVec.ofNat 8 s.formats[n].decimals.val, BitVec.ofNat 8 s.formats[n].decimalMark.code,
            BitVec.ofNat 8 s.formats[n].groupMark.code, (if s.formats[n].minorStyle = .raised then 1 else 0),
            (if s.formats[n].dropZeroMinor then 1 else 0), BitVec.ofNat 8 s.formats[n].symbol.val,
            (if s.formats[n].symbolPlace = .after then 1 else 0), (if s.formats[n].symbolGap then 1 else 0)])) ∧
    (b = [] →
      exec (.formatMode b) s =
        .next (s.replied 0x22 .done
          [if s.formatMode.perItem then 1 else 0, BitVec.ofNat 8 s.formatMode.number.val])) ∧
    (b.length ≠ 0 → b.length ≠ 2 → exec (.formatMode b) s = .next (s.replied 0x22 .badLength [])) ∧
    (b.length = 2 → 2 ≤ u8 b 0 ∨ 8 ≤ u8 b 1 → exec (.formatMode b) s = .next (s.replied 0x22 .badField [])) ∧
    (b.length = 2 → u8 b 0 < 2 → ∀ n : Fin 8, u8 b 1 = n.val →
      exec (.formatMode b) s =
        .next (({ s with formatMode := { perItem := decide (u8 b 0 = 1), number := n } }).replied 0x22 .done
          [BitVec.ofNat 8 (u8 b 0), BitVec.ofNat 8 n.val]))

/-- R26 to R30: what glyphs a price is written with in a format: the major digits and their group marks, the decimal mark and
the minor digits in the minor style, the symbol and its gap; their number, and the width of a sequence. -/
def Obligations.PriceIsWritten : Prop :=
  (∀ (f : Format) (p d : Nat), p ≤ 9999999 → d = f.decimals.val →
    ∃ major grouped minor : List Nat,
      (major.foldl (fun a x => 10 * a + x) 0 = p / 10 ^ d ∧ (∀ x ∈ major, x < 10) ∧ 1 ≤ major.length ∧ major.length ≤ 7 ∧
        (major.head? = some 0 → major = [0])) ∧
      (minor.length = d ∧ minor.foldl (fun a x => 10 * a + x) 0 = p % 10 ^ d ∧ ∀ x ∈ minor, x < 10) ∧
      (f.groupMark = .absent ∨ major.length ≤ 3 → grouped = major) ∧
      (∀ m : Nat,
        (f.groupMark = .comma ∧ m = 21) ∨ (f.groupMark = .point ∧ m = 20) ∨ (f.groupMark = .apostrophe ∧ m = 22) ∨
          (f.groupMark = .thinSpace ∧ m = 23) →
        (4 ≤ major.length → major.length ≤ 6 →
          grouped = major.take (major.length - 3) ++ [m] ++ major.drop (major.length - 3)) ∧
        (major.length = 7 → grouped = major.take 1 ++ [m] ++ (major.drop 1).take 3 ++ [m] ++ major.drop 4)) ∧
      (d = 0 ∨ (f.dropZeroMinor = true ∧ p % 10 ^ d = 0) → numberGlyphs f p = grouped) ∧
      (d ≠ 0 → f.dropZeroMinor = false ∨ p % 10 ^ d ≠ 0 →
        (f.minorStyle = .raised → numberGlyphs f p = grouped ++ minor.map (fun x => 10 + x)) ∧
        (f.minorStyle = .inline → f.decimalMark = .point → numberGlyphs f p = grouped ++ [20] ++ minor) ∧
        (f.minorStyle = .inline → f.decimalMark = .comma → numberGlyphs f p = grouped ++ [21] ++ minor)) ∧
      (numberGlyphs f p).length ≤ 9) ∧
  (∀ (f : Format) (p : Nat) (gap : List Nat), gap = (if f.symbolGap then [23] else []) →
    (f.symbol = 0 → priceGlyphs f p = numberGlyphs f p) ∧
    (f.symbol ≠ 0 → f.symbolPlace = .before →
      priceGlyphs f p = [24 + f.symbol.val] ++ gap ++ numberGlyphs f p) ∧
    (f.symbol ≠ 0 → f.symbolPlace = .after →
      priceGlyphs f p = numberGlyphs f p ++ gap ++ [24 + f.symbol.val]) ∧
    (p ≤ 9999999 → (priceGlyphs f p).length ≤ 11)) ∧
  ∀ (advances rest : List Nat) (g : Nat),
    sequenceWidth advances [] = 0 ∧
    sequenceWidth advances (g :: rest) = advances.getD g 0 + sequenceWidth advances rest

/-- R31: the fit outcome is the first case that applies, and what is drawn is never wider than the field. -/
def Obligations.FitChoosesFirstCase : Prop :=
  ∀ (advances : List Nat) (policy : FitPolicy) (w : Nat) (f : Format) (p : Nat),
    (sequenceWidth advances (priceGlyphs f p) ≤ w → fitPrice advances policy w f p = (.drawn, priceGlyphs f p)) ∧
    (w < sequenceWidth advances (priceGlyphs f p) → policy = .trimThenDash → f.symbol ≠ 0 →
      sequenceWidth advances (numberGlyphs f p) ≤ w → fitPrice advances policy w f p = (.trimmed, numberGlyphs f p)) ∧
    (w < sequenceWidth advances (priceGlyphs f p) →
      policy = .dash ∨ f.symbol = 0 ∨ w < sequenceWidth advances (numberGlyphs f p) →
      fitPrice advances policy w f p =
        if min 3 (w / advances.getD 24 0) = 0 then (.blank, [])
        else (.dashed, List.replicate (min 3 (w / advances.getD 24 0)) 24)) ∧
    sequenceWidth advances (fitPrice advances policy w f p).2 ≤ w

/-! ## Notices (section 10.4) -/

/-- R175, R35, R62, R78, R96, R162: a raise on a source with priority 0 is ignored; any other makes the source pending and
merges into its detail, and changes nothing else; a raise with an empty set or a count of 0 is none; the number of each source. -/
def Obligations.RaisesCoalesce : Prop :=
  ([Source.restarted, .feedDark, .feedChange, .panelLink, .panelFault, .flipDone, .flipAbandoned, .holdLimit, .availChange,
      .photoWatch, .fitFault, .marginFault, .relayDrop, .scheduleFired].map Source.index = List.finRange 14) ∧
  (∀ (src : Source) (set : Word) (n : Nat) (slots : List Nat) (s : State),
    State.raiseSet src set s = (if set = 0 then s else State.raise src (addMembers set) s) ∧
    State.countAvail n s = (if n = 0 then s else State.raise .availChange (addCount n) s) ∧
    State.raiseFaults [] s = s ∧
    State.raiseFaults (n :: slots) s = State.raiseFaults slots (State.raise .fitFault (keepLowest n) s)) ∧
  (∀ (test : Fin 4 → Bool) (i : Nat), (fourWord test).getLsbD i = true ↔ ∃ k : Fin 4, k.val = i ∧ test k = true) ∧
  (∀ (src : Source) (merge : Option Word → Word) (s : State),
    ((s.notices[src.index]).priority = 0 → State.raise src merge s = s) ∧
    ((s.notices[src.index]).priority ≠ 0 →
      State.raise src merge s =
        { s with
          notices := s.notices.set src.index
            { priority := (s.notices[src.index]).priority, held := some (merge (s.notices[src.index]).held) } })) ∧
  (∀ (set d : Word) (i : Nat), (addMembers set none).getLsbD i = set.getLsbD i ∧
    (addMembers set (some d)).getLsbD i = (d.getLsbD i || set.getLsbD i)) ∧
  (∀ (n : Nat) (d : Word), (addCount n none).toNat = min 65535 n ∧ (addCount n (some d)).toNat = min 65535 (d.toNat + n)) ∧
  (∀ (n : Nat) (d : Word), n < 256 →
    (keepLowest n none).toNat = n ∧ (keepLowest n (some d)).toNat = min d.toNat n) ∧
  ∀ (x y : Nat) (held : Option Word),
    (addFaults x y held).toNat / 65536 = min 65535 ((held.getD 0).toNat / 65536 + x) ∧
    (addFaults x y held).toNat % 65536 = min 65535 ((held.getD 0).toNat % 65536 + y)

/-- R176: NOTICE PUT. -/
def Obligations.NoticePutSets : Prop :=
  ∀ (b : List Byte) (s : State), s.Takes →
    (b.length ≠ 2 → exec (.noticePut b) s = .next (s.replied 0x91 .badLength [])) ∧
    (b.length = 2 → u8 b 0 ≤ 2 ∨ 14 < u8 b 0 ∨ 7 < u8 b 1 → exec (.noticePut b) s = .next (s.replied 0x91 .badField [])) ∧
    (b.length = 2 → u8 b 1 ≤ 7 → ∀ i : Fin 14, 2 ≤ i.val → u8 b 0 = i.val + 1 →
      ∃ n : Notice, n.priority = u8 b 1 ∧ (u8 b 1 = 0 → n.held = none) ∧ (u8 b 1 ≠ 0 → n.held = s.notices[i].held) ∧
        exec (.noticePut b) s =
          .next (({ s with notices := s.notices.set i n }).replied 0x91 .done
            [BitVec.ofNat 8 (u8 b 0), BitVec.ofNat 8 n.priority, if n.held.isSome then 1 else 0]))

/-! ## Slots and views (chapter 3) -/

/-- R36 to R40, R62: SLOT PUT, and the counts of BOUND and of MISSING slots. -/
def Obligations.SlotPutBinds : Prop :=
  (∀ (s : State) (n : Nat), s.slot n = (Table.find? s.slots n).getD Slot.reset) ∧
  (∀ slots : List (Nat × Slot),
    boundCount slots = slots.countP (fun e => e.2.record.isSome) ∧ missingCount slots = slots.countP (fun e => e.2.missing)) ∧
  (∀ b : List Byte, slotFieldsGood b = true ↔
    u16 b 9 ≠ 0 ∧ u16 b 1 ≤ 7679 ∧ u16 b 3 ≤ 2159 ∧ 1 ≤ u16 b 5 ∧ u16 b 5 ≤ 3840 ∧ 1 ≤ u16 b 7 ∧ u16 b 7 ≤ 2160 ∧
    u16 b 1 + u16 b 5 ≤ 7680 ∧ u16 b 3 + u16 b 7 ≤ 2160 ∧ 1 ≤ u16 b 15 ∧ u16 b 11 + u16 b 15 ≤ u16 b 5 ∧
    u16 b 13 < u16 b 7 ∧ u16 b 26 < u16 b 5 ∧ u16 b 28 < u16 b 7 ∧ u8 b 17 ≤ 2 ∧ u8 b 18 ≤ 3 ∧ u8 b 25 ≤ 1 ∧ u8 b 30 ≤ 1 ∧
    (∀ i, i = 31 ∨ i = 34 ∨ i = 37 →
      ((u8 b i = 0 ∧ u8 b (i + 1) = 0) ∨ (u8 b i = 1 ∧ 1 ≤ u8 b (i + 1) ∧ u8 b (i + 1) ≤ 7) ∨
        (u8 b i = 2 ∧ 1 ≤ u8 b (i + 1) ∧ u8 b (i + 1) ≤ 63)) ∧ u8 b (i + 2) ≤ 1) ∧
    u8 b 40 ≤ 2 ∧ u8 b 44 ≤ 7 ∧ u16 b 45 ≠ 0) ∧
  ∀ (b : List Byte) (s : State), s.Takes →
    (b.length ≠ 47 → exec (.slotPut b) s = .next (s.replied 0x30 .badLength [])) ∧
    (b.length = 47 → slotFieldsGood b = false → exec (.slotPut b) s = .next (s.replied 0x30 .badField [])) ∧
    (b.length = 47 → slotFieldsGood b = true →
      ∃ (r : SlotRecord) (t : State), slotBody (u8 b 0) r = b ∧
        r.x = u16 b 1 ∧ r.y = u16 b 3 ∧ r.width = u16 b 5 ∧ r.height = u16 b 7 ∧ r.item = u16 b 9 ∧ r.fieldX = u16 b 11 ∧
        r.fieldY = u16 b 13 ∧ r.fieldW = u16 b 15 ∧ r.glyphSet.val = u8 b 18 ∧ r.badgeX = u16 b 26 ∧ r.badgeY = u16 b 28 ∧
        r.watchFrames = u16 b 45 ∧
        (u8 b 17 = 0 → r.align = .left) ∧ (u8 b 17 = 1 → r.align = .right) ∧ (u8 b 17 = 2 → r.align = .centre) ∧
        r.ink = { r := b.getD 19 0, g := b.getD 20 0, b := b.getD 21 0 } ∧
        r.paper = { r := b.getD 22 0, g := b.getD 23 0, b := b.getD 24 0 } ∧ r.paperClear = decide (u8 b 25 = 1) ∧
        (u8 b 30 = 0 → r.policy = .trimThenDash) ∧ (u8 b 30 = 1 → r.policy = .dash) ∧
        (∀ (i : Nat) (treatment : Treatment),
          (i = 31 ∧ treatment = r.soldOut) ∨ (i = 34 ∧ treatment = r.offMenu) ∨ (i = 37 ∧ treatment = r.photoMissing) →
          (u8 b i = 0 → treatment.action = .keep) ∧ (u8 b i = 1 → treatment.action = .dim (u8 b (i + 1))) ∧
          (u8 b i = 2 → ∃ k : Fin 63, k.val + 1 = u8 b (i + 1) ∧ treatment.action = .cover k) ∧
          treatment.hide = decide (u8 b (i + 2) = 1)) ∧
        (u8 b 40 = 0 → r.watchMode = .off) ∧ (u8 b 40 = 1 → r.watchMode = .matching) ∧
        (u8 b 40 = 2 → r.watchMode = .still) ∧
        r.watchColour = { r := b.getD 41 0, g := b.getD 42 0, b := b.getD 43 0 } ∧ r.tolerance.val = u8 b 44 ∧
        exec (.slotPut b) s =
          .next (t.replied 0x30 .done
            ([BitVec.ofNat 8 (u8 b 0), if (s.slot (u8 b 0)).record.isSome then 1 else 0] ++ put16 (boundCount t.slots))) ∧
        t = { s with slots := t.slots, notices := t.notices } ∧
        t.slot (u8 b 0) =
          { record := some r, counter := 0, missing := false, sample := none, fit := (s.slot (u8 b 0)).fit } ∧
        (∀ n, n ≠ u8 b 0 → t.slot n = s.slot n) ∧
        t.notices =
          if (s.slot (u8 b 0)).missing then
            (State.raise .photoWatch (fun _ => BitVec.ofNat 32 (missingCount t.slots)) s).notices
          else s.notices)

/-- R41, R42, R62: SLOT DROP and SLOT GET. -/
def Obligations.SlotDropAndGet : Prop :=
  ∀ (b : List Byte) (s : State), s.Takes →
    (b.length ≠ 1 →
      exec (.slotDrop b) s = .next (s.replied 0x31 .badLength []) ∧
      exec (.slotGet b) s = .next (s.replied 0x32 .badLength [])) ∧
    (b.length = 1 → (s.slot (u8 b 0)).record = none →
      exec (.slotDrop b) s = .next (s.replied 0x31 .noEntry []) ∧
      exec (.slotGet b) s = .next (s.replied 0x32 .noEntry [])) ∧
    (b.length = 1 → ∀ r, (s.slot (u8 b 0)).record = some r →
      (∃ t : State,
        exec (.slotDrop b) s = .next (t.replied 0x31 .done (put16 (boundCount t.slots))) ∧
        t = { s with slots := t.slots, notices := t.notices } ∧
        t.slot (u8 b 0) = { record := none, counter := 0, missing := false, sample := none, fit := (s.slot (u8 b 0)).fit } ∧
        (∀ n, n ≠ u8 b 0 → t.slot n = s.slot n) ∧
        t.notices =
          if (s.slot (u8 b 0)).missing then
            (State.raise .photoWatch (fun _ => BitVec.ofNat 32 (missingCount t.slots)) s).notices
          else s.notices) ∧
      ∃ record : List Byte, record = slotBody (u8 b 0) r ∧ record.length = 47 ∧
        exec (.slotGet b) s =
          .next (s.replied 0x32 .done
            (record ++ put16 (s.slot (u8 b 0)).counter ++ [if (s.slot (u8 b 0)).missing then 1 else 0])))

/-- R48 to R53, R24, R31: the view of a slot is the first case that applies, and what it draws: the action with the cover's
fallback, the price written in the format and fitted in the glyph set, and the badge. -/
def Obligations.ViewPrecedence : Prop :=
  (∀ (art : Art) (k : Fin 63) (w h : Nat) (fill : Colour) (pixels : List Byte),
    readyCard art k = some (w, h, fill, pixels) ↔
      Table.find? art (k.val + 4) = some { ready := true, shape := .card w h fill, content := pixels }) ∧
  (∀ (art : Art) (n : Fin 4) (h : Nat) (advances : List Nat) (image : List Byte),
    readyGlyphSet art n = some (h, advances, image) ↔
      Table.find? art n.val = some { ready := true, shape := .glyphSet h advances, content := image }) ∧
  (∀ (art : Art) (r : SlotRecord) (level : Nat) (k : Fin 63),
    drawnAction art r .keep = .nothing ∧ drawnAction art r (.dim level) = .dim level ∧
    ((∃ c, readyCard art k = some c) → drawnAction art r (.cover k) = .coverCard k) ∧
    (readyCard art k = none →
      (r.paperClear = false → drawnAction art r (.cover k) = .coverFallback r.paper) ∧
      (r.paperClear = true → drawnAction art r (.cover k) = .coverFallback { r := 0, g := 0, b := 0 }))) ∧
  (∀ (s : State) (r : SlotRecord) (i : Item) (p : Nat),
    (readyGlyphSet s.art r.glyphSet = none →
      drawnPrice s r i p = { glyphSet := r.glyphSet, glyphs := [], outcome := .noArt }) ∧
    ∀ (h : Nat) (advances : List Nat) (image : List Byte) (f : Format) (outcome : FitOutcome) (glyphs : List Nat),
      readyGlyphSet s.art r.glyphSet = some (h, advances, image) →
      (s.formatMode.perItem = false ∧ f = s.formats[s.formatMode.number]) ∨
        (s.formatMode.perItem = true ∧ f = s.formats[i.format]) →
      fitPrice advances r.policy r.fieldW f p = (outcome, glyphs) →
      drawnPrice s r i p = { glyphSet := r.glyphSet, glyphs := glyphs, outcome := outcome }) ∧
  (∀ i : Item, i.price .A = i.priceA ∧ i.price .B = i.priceB) ∧
  ∀ (s : State) (bank : Bank) (t : Slot),
    (t.record = none → slotView s bank t = none) ∧
    ∀ r, t.record = some r →
      (Table.find? s.items r.item = none →
        slotView s bank t = some { kind := .orphan, record := r, action := .nothing, price := none, badge := none }) ∧
      ∀ i, Table.find? s.items r.item = some i →
        (i.price bank = none →
          slotView s bank t =
            some { kind := .offMenu, record := r, action := drawnAction s.art r r.offMenu.action, price := none,
                   badge := none }) ∧
        ∀ p, i.price bank = some p →
          (i.mergedSoldOut s.lines = true →
            slotView s bank t =
              some { kind := .soldOut, record := r, action := drawnAction s.art r r.soldOut.action,
                     price := if r.soldOut.hide then none else some (drawnPrice s r i p), badge := none }) ∧
          (i.mergedSoldOut s.lines = false → t.missing = true →
            slotView s bank t =
              some { kind := .noPhoto, record := r, action := drawnAction s.art r r.photoMissing.action,
                     price := if r.photoMissing.hide then none else some (drawnPrice s r i p), badge := none }) ∧
          (i.mergedSoldOut s.lines = false → t.missing = false →
            slotView s bank t =
              some { kind := .priced, record := r, action := .nothing, price := some (drawnPrice s r i p),
                     badge := i.badge.filter (fun k => (readyCard s.art k).isSome) })

/-! ## Stock lines (chapter 4) -/

/-- R75, R76, R78: MARK. -/
def Obligations.MarkSetsSoldOut : Prop :=
  (∀ (lines : Vector Line 8) (i : Item),
    (i.lineSoldOut lines = true ↔
      ∃ (c : Fin 8) (l : Fin 8), i.stockClass = some c ∧ lines[l].function = .classOut ∧ lines[l].stockClass = c ∧
        lines[l].active = true ∧ lines[l].masked = false) ∧
    (i.mergedSoldOut lines = true ↔ i.soldOut = true ∨ (i.localOnly = false ∧ i.lineSoldOut lines = true))) ∧
  ∀ (b : List Byte) (s : State), s.Takes →
    (b.length ≠ 3 → exec (.mark b) s = .next (s.replied 0x40 .badLength [])) ∧
    (b.length = 3 → u16 b 0 = 0 ∨ 2 ≤ u8 b 2 → exec (.mark b) s = .next (s.replied 0x40 .badField [])) ∧
    (b.length = 3 → u16 b 0 ≠ 0 → u8 b 2 < 2 → Table.find? s.items (u16 b 0) = none →
      exec (.mark b) s = .next (s.replied 0x40 .noEntry [])) ∧
    (b.length = 3 → u16 b 0 ≠ 0 → u8 b 2 < 2 → ∀ old, Table.find? s.items (u16 b 0) = some old →
      ∀ new : Item, new = { old with soldOut := decide (u8 b 2 = 1) } →
      exec (.mark b) s =
        .next ((State.countAvail
            (if new.notify = true ∧ new.mergedSoldOut s.lines ≠ old.mergedSoldOut s.lines then 1 else 0)
            { s with items := Table.insert s.items (u16 b 0) new }).replied 0x40 .done
          [BitVec.ofNat 8 (u8 b 2), if new.lineSoldOut s.lines then 1 else 0, if new.mergedSoldOut s.lines then 1 else 0]))

/-- R63, R71, R72, R78, R97: LINE PUT, and the codes of a line's function and of a bank. -/
def Obligations.LinePutReplaces : Prop :=
  (LineFunction.code .nothing = 0 ∧ LineFunction.code .classOut = 1 ∧ LineFunction.code .groupHold = 2 ∧
    LineFunction.code .groupFlip = 3 ∧ Bank.code .A = 0 ∧ Bank.code .B = 1) ∧
  (∀ i j : Fin 8, (oneLine i).getLsbD j.val = decide (i = j)) ∧
  ∀ (b : List Byte) (s : State), s.Takes →
    (b.length ≠ 8 → exec (.linePut b) s = .next (s.replied 0x42 .badLength [])) ∧
    (b.length = 8 →
      8 ≤ u8 b 0 ∨ 4 ≤ u8 b 1 ∨ 2 ≤ u8 b 2 ∨ u8 b 3 = 0 ∨ 15 < u8 b 3 ∨ 8 ≤ u8 b 4 ∨ 16 ≤ u8 b 5 ∨ 2 ≤ u8 b 6 ∨ 2 ≤ u8 b 7 →
      exec (.linePut b) s = .next (s.replied 0x42 .badField [])) ∧
    (b.length = 8 → u8 b 1 < 4 → u8 b 2 < 2 → 1 ≤ u8 b 3 → u8 b 3 ≤ 15 → u8 b 4 < 8 → u8 b 5 < 16 → u8 b 6 < 2 →
      u8 b 7 < 2 → ∀ i : Fin 8, u8 b 0 = i.val →
      ∃ (new : Line) (t : State), new.function.code = u8 b 1 ∧ new.activeHigh.toNat = u8 b 2 ∧ new.debounce = u8 b 3 ∧
        new.stockClass.val = u8 b 4 ∧ new.groups.toNat = u8 b 5 ∧ new.target.code = u8 b 6 ∧ new.masked.toNat = u8 b 7 ∧
        new.raw = s.lines[i].raw ∧ new.active = s.lines[i].active ∧
        new.run = (if new.activeHigh = s.lines[i].activeHigh ∧ new.debounce = s.lines[i].debounce then s.lines[i].run else 0) ∧
        exec (.linePut b) s = .next (t.replied 0x42 .done [BitVec.ofNat 8 i.val, if new.active && !new.masked then 1 else 0]) ∧
        t = { s with lines := s.lines.set i new, groups := t.groups, notices := t.notices } ∧
        (s.lines[i].active = false → t.groups = s.groups ∧ t.notices = s.notices) ∧
        (s.lines[i].active = true → ∀ g : Fin 4,
          t.groups[g] = s.groups[g].sourcesChanged
            { s.groups[g] with
              lineHold :=
                if new.masked = false ∧ new.function = .groupHold ∧ new.groups.getLsbD g.val = true then
                  s.groups[g].lineHold ||| oneLine i
                else s.groups[g].lineHold &&& ~~~(oneLine i)
              disregarded := s.groups[g].disregarded &&& ~~~(oneLine i) }) ∧
        t.notices =
          (State.countAvail
            (s.items.countP (fun e => e.2.notify && e.2.mergedSoldOut s.lines != e.2.mergedSoldOut (s.lines.set i new)))
            s).notices)

/-- R64, R65, R66, R74: LINE GET, one sample of a stock line, and when a line is in force. -/
def Obligations.LineGetAndSample : Prop :=
  (∀ (b : List Byte) (s : State), s.Takes →
    (b.length ≠ 1 → exec (.lineGet b) s = .next (s.replied 0x43 .badLength [])) ∧
    (b.length = 1 → 8 ≤ u8 b 0 → exec (.lineGet b) s = .next (s.replied 0x43 .badField [])) ∧
    (b.length = 1 → ∀ i : Fin 8, u8 b 0 = i.val →
      exec (.lineGet b) s =
        .next (s.replied 0x43 .done
          [BitVec.ofNat 8 i.val, BitVec.ofNat 8 s.lines[i].function.code, (if s.lines[i].activeHigh then 1 else 0),
            BitVec.ofNat 8 s.lines[i].debounce, BitVec.ofNat 8 s.lines[i].stockClass.val,
            BitVec.ofNat 8 s.lines[i].groups.toNat, BitVec.ofNat 8 s.lines[i].target.code,
            (if s.lines[i].masked then 1 else 0), (if s.lines[i].raw then 1 else 0), (if s.lines[i].active then 1 else 0),
            BitVec.ofNat 8 s.lines[i].run]))) ∧
  (∀ (level : Bool) (l : Line),
    (decide (level = l.activeHigh) = l.active → l.sampled level = { l with raw := level, run := 0 }) ∧
    (decide (level = l.activeHigh) ≠ l.active → l.run + 1 < l.debounce →
      l.sampled level = { l with raw := level, run := l.run + 1 }) ∧
    (decide (level = l.activeHigh) ≠ l.active → l.debounce ≤ l.run + 1 →
      l.sampled level = { l with raw := level, active := !l.active, run := 0 })) ∧
  ∀ l : Line, l.inForce = true ↔ l.active = true ∧ l.masked = false

/-! ## Panel groups (chapter 5) -/

/-- R82, R83: GROUP PUT and GROUP GET, and the codes of a bank, a flip state and a hold phase. -/
def Obligations.GroupPutAndGet : Prop :=
  (Bank.code .A = 0 ∧ Bank.code .B = 1 ∧ FlipState.code .idle = 0 ∧ FlipState.code .waiting = 1 ∧
    FlipState.code .settling = 2 ∧ FlipState.code .fading = 3 ∧ HoldPhase.code .free = 0 ∧ HoldPhase.code .captureDue = 1 ∧
    HoldPhase.code .captured = 2 ∧ HoldPhase.code .releaseDue = 3) ∧
  ∀ (b : List Byte) (s : State), s.Takes →
    (b.length ≠ 8 → exec (.groupPut b) s = .next (s.replied 0x50 .badLength [])) ∧
    (b.length = 8 → 4 ≤ u8 b 0 ∨ 2 ≤ u8 b 4 ∨ 30 < u8 b 5 → exec (.groupPut b) s = .next (s.replied 0x50 .badField [])) ∧
    (b.length = 8 → u8 b 4 < 2 → u8 b 5 ≤ 30 → ∀ g : Fin 4, u8 b 0 = g.val →
      (s.groups[g].flip ≠ .idle → exec (.groupPut b) s = .next (s.replied 0x50 .wrongState [])) ∧
      (s.groups[g].flip = .idle →
        exec (.groupPut b) s =
          .next (({ s with
                    groups := s.groups.set g
                      { s.groups[g] with
                        settleFrames := u8 b 1
                        timeoutFrames := u16 b 2
                        force := decide (u8 b 4 = 1)
                        fadeFrames := u8 b 5
                        holdLimit := u16 b 6 } }).replied 0x50 .done [BitVec.ofNat 8 g.val]))) ∧
    (b.length ≠ 1 → exec (.groupGet b) s = .next (s.replied 0x51 .badLength [])) ∧
    (b.length = 1 → 4 ≤ u8 b 0 → exec (.groupGet b) s = .next (s.replied 0x51 .badField [])) ∧
    (b.length = 1 → ∀ g : Fin 4, u8 b 0 = g.val →
      ∃ members ready : Nat, members < 16 ∧ ready < 16 ∧
        (∀ k : Fin 4,
          (members.testBit k.val = true ↔ s.outputs[k].enabled = true ∧ s.outputs[k].group = g) ∧
          (ready.testBit k.val = true ↔ s.outputs[k].enabled = true ∧ s.outputs[k].group = g ∧
            (s.outputs[k].link = .up ∨ s.outputs[k].link = .plain))) ∧
        exec (.groupGet b) s =
          .next (s.replied 0x51 .done
            ([BitVec.ofNat 8 g.val, BitVec.ofNat 8 s.groups[g].shown.code, BitVec.ofNat 8 s.groups[g].flip.code,
                BitVec.ofNat 8 ((s.groups[g].target.map Bank.code).getD 255),
                BitVec.ofNat 8 ((s.groups[g].pendingTarget.map Bank.code).getD 255)] ++
              put16 s.groups[g].age ++
              [BitVec.ofNat 8 s.groups[g].settle, BitVec.ofNat 8 s.groups[g].fadeStep,
                BitVec.ofNat 8 s.groups[g].fadeLength, BitVec.ofNat 8 s.groups[g].settleFrames] ++
              put16 s.groups[g].timeoutFrames ++
              [(if s.groups[g].force then 1 else 0), BitVec.ofNat 8 s.groups[g].fadeFrames] ++
              put16 s.groups[g].holdLimit ++
              [(if s.groups[g].commandHold then 1 else 0), s.groups[g].lineHold, s.groups[g].disregarded,
                BitVec.ofNat 8 s.groups[g].phase.code] ++
              put16 s.groups[g].holdAge ++ [BitVec.ofNat 8 members, BitVec.ofNat 8 ready])))

/-- R84, R85, R86, R87: what a flip request does in each state of the group it reaches. -/
def Obligations.FlipRequestOutcomes : Prop :=
  ∀ (b : Bank) (g : Group),
    (g.phase = .free → g.flip = .idle → b = g.shown → Group.request b g = (g, .already)) ∧
    (g.phase = .free → g.flip = .idle → b ≠ g.shown →
      Group.request b g = ({ g with flip := .waiting, target := some b, age := 0, settle := 0 }, .started)) ∧
    (g.phase = .free → g.flip = .waiting ∨ g.flip = .settling → g.target = some b → Group.request b g = (g, .merged)) ∧
    (g.phase = .free → g.flip = .waiting ∨ g.flip = .settling → b = g.shown → g.target ≠ some g.shown →
      Group.request b g = ({ g with flip := .idle, target := none, age := 0, settle := 0 }, .cancelled)) ∧
    (g.phase = .free → g.flip = .fading → g.target = some b →
      Group.request b g = ({ g with pendingTarget := none }, .merged)) ∧
    (g.phase = .free → g.flip = .fading → b = g.shown → g.target ≠ some g.shown →
      Group.request b g = ({ g with pendingTarget := some b }, .deferred)) ∧
    (g.phase = .captureDue ∨ g.phase = .captured ∨ g.phase = .releaseDue →
      Group.request b g = ({ g with pendingTarget := some b }, .deferred))

/-- R88: FLIP, and the codes of a bank and of a request's outcome. -/
def Obligations.FlipSendsRequests : Prop :=
  (Bank.code .A = 0 ∧ Bank.code .B = 1 ∧ RequestOutcome.code .already = 1 ∧ RequestOutcome.code .started = 2 ∧
    RequestOutcome.code .merged = 3 ∧ RequestOutcome.code .cancelled = 4 ∧ RequestOutcome.code .deferred = 5) ∧
  ∀ (b : List Byte) (s : State), s.Takes →
    (b.length ≠ 2 → exec (.flip b) s = .next (s.replied 0x52 .badLength [])) ∧
    (b.length = 2 → u8 b 0 = 0 ∨ 16 ≤ u8 b 0 ∨ 2 ≤ u8 b 1 → exec (.flip b) s = .next (s.replied 0x52 .badField [])) ∧
    (b.length = 2 → 1 ≤ u8 b 0 → u8 b 0 < 16 → ∀ bank : Bank, u8 b 1 = bank.code →
      ∃ (groups : Vector Group 4) (code : Fin 4 → Nat),
        exec (.flip b) s =
          .next (({ s with groups := groups }).replied 0x52 .done
            [BitVec.ofNat 8 (code 0), BitVec.ofNat 8 (code 1), BitVec.ofNat 8 (code 2), BitVec.ofNat 8 (code 3)]) ∧
        ∀ g : Fin 4,
          ((u8 b 0).testBit g.val = false → groups[g] = s.groups[g] ∧ code g = 0) ∧
          ((u8 b 0).testBit g.val = true →
            groups[g] = (Group.request bank s.groups[g]).1 ∧ code g = (Group.request bank s.groups[g]).2.code))

/-- R97, R98, R99, R105: HOLD and RELEASE, and how the hold phase follows the hold sources. -/
def Obligations.HoldAndRelease : Prop :=
  (∀ g : Group, g.hasSource = true ↔
    g.commandHold = true ∨ ∃ i : Fin 8, g.lineHold.getLsbD i.val = true ∧ g.disregarded.getLsbD i.val = false) ∧
  (∀ g n : Group,
    (g.hasSource = n.hasSource → g.sourcesChanged n = n) ∧
    (g.hasSource = false → n.hasSource = true →
      (n.phase = .free → n.flip = .waiting ∨ n.flip = .settling →
        g.sourcesChanged n =
          { n with phase := .captureDue, pendingTarget := n.target, flip := .idle, target := none, age := 0, settle := 0 }) ∧
      (n.phase = .free → n.flip = .idle ∨ n.flip = .fading → g.sourcesChanged n = { n with phase := .captureDue }) ∧
      (n.phase = .releaseDue → n.capture.isSome = true → g.sourcesChanged n = { n with phase := .captured }) ∧
      (n.phase = .releaseDue → n.capture = none → g.sourcesChanged n = { n with phase := .captureDue })) ∧
    (g.hasSource = true → n.hasSource = false →
      (n.phase = .captureDue → g.sourcesChanged n = { n with phase := .releaseDue, capture := none }) ∧
      (n.phase = .captured → g.sourcesChanged n = { n with phase := .releaseDue }))) ∧
  ∀ (b : List Byte) (s : State), s.Takes →
    (b.length ≠ 1 →
      exec (.hold b) s = .next (s.replied 0x53 .badLength []) ∧
      exec (.release b) s = .next (s.replied 0x54 .badLength [])) ∧
    (b.length = 1 → u8 b 0 = 0 ∨ 16 ≤ u8 b 0 →
      exec (.hold b) s = .next (s.replied 0x53 .badField []) ∧
      exec (.release b) s = .next (s.replied 0x54 .badField [])) ∧
    (b.length = 1 → 1 ≤ u8 b 0 → u8 b 0 < 16 →
      ∃ held released : Vector Group 4,
        (∀ g : Fin 4,
          ((u8 b 0).testBit g.val = false → held[g] = s.groups[g] ∧ released[g] = s.groups[g]) ∧
          ((u8 b 0).testBit g.val = true →
            held[g] = s.groups[g].sourcesChanged { s.groups[g] with commandHold := true } ∧
            released[g] = s.groups[g].sourcesChanged { s.groups[g] with commandHold := false })) ∧
        exec (.hold b) s =
          .next (({ s with groups := held }).replied 0x53 .done
            [BitVec.ofNat 8 held[0].phase.code, BitVec.ofNat 8 held[1].phase.code, BitVec.ofNat 8 held[2].phase.code,
              BitVec.ofNat 8 held[3].phase.code]) ∧
        exec (.release b) s =
          .next (({ s with groups := released }).replied 0x54 .done
            [BitVec.ofNat 8 released[0].phase.code, BitVec.ofNat 8 released[1].phase.code,
              BitVec.ofNat 8 released[2].phase.code, BitVec.ofNat 8 released[3].phase.code]))

/-- R90 to R94, R96: the flip machine at a frame start. -/
def Obligations.FlipStageRules : Prop :=
  ∀ (ready : Bool) (g : Group) (b : Bank),
    (g.flip = .idle → g.flipStage ready = (g, .goesOn)) ∧
    (g.target = some b → g.flip = .waiting ∨ g.flip = .settling →
      (g.timeoutFrames ≠ 0 → g.timeoutFrames ≤ min 65535 (g.age + 1) →
        (g.force = false →
          g.flipStage ready = ({ g with flip := .idle, target := none, age := 0, settle := 0 }, .abandoned)) ∧
        (g.force = true → g.fadeFrames = 0 →
          g.flipStage ready =
            ({ g with shown := b, flip := .idle, target := none, age := 0, settle := 0, fadeStep := 0, fadeLength := 0 },
              .forced)) ∧
        (g.force = true → g.fadeFrames ≠ 0 →
          g.flipStage ready =
            ({ g with flip := .fading, age := 0, settle := 0, fadeStep := 1, fadeLength := g.fadeFrames }, .forced))) ∧
      (g.timeoutFrames = 0 ∨ min 65535 (g.age + 1) < g.timeoutFrames →
        (ready = false →
          g.flipStage ready =
            ({ g with
               age := min 65535 (g.age + 1)
               flip := .waiting
               settle := if g.flip = .settling then 0 else g.settle }, .goesOn)) ∧
        (ready = true → g.flip = .waiting → g.settleFrames ≠ 0 →
          g.flipStage ready =
            ({ g with age := min 65535 (g.age + 1), flip := .settling, settle := g.settleFrames }, .goesOn)) ∧
        (ready = true → g.flip = .settling → 1 < g.settle →
          g.flipStage ready = ({ g with age := min 65535 (g.age + 1), settle := g.settle - 1 }, .goesOn)) ∧
        (ready = true → (g.flip = .waiting ∧ g.settleFrames = 0) ∨ (g.flip = .settling ∧ g.settle ≤ 1) →
          (g.fadeFrames = 0 →
            g.flipStage ready =
              ({ g with shown := b, flip := .idle, target := none, age := 0, settle := 0, fadeStep := 0, fadeLength := 0 },
                .executes)) ∧
          (g.fadeFrames ≠ 0 →
            g.flipStage ready =
              ({ g with flip := .fading, age := 0, settle := 0, fadeStep := 1, fadeLength := g.fadeFrames }, .executes))))) ∧
    (g.target = some b → g.flip = .fading →
      (g.fadeStep < g.fadeLength → g.flipStage ready = ({ g with fadeStep := g.fadeStep + 1 }, .goesOn)) ∧
      (g.fadeLength ≤ g.fadeStep →
        g.flipStage ready =
          ({ g with shown := b, flip := .idle, target := none, age := 0, settle := 0, fadeStep := 0, fadeLength := 0 },
            .fadeCompletes))) ∧
    (∀ e, flipDone (g.flipStage ready).1 e = true ↔
      e = .fadeCompletes ∨ ((e = .executes ∨ e = .forced) ∧ (g.flipStage ready).1.flip = .idle))

/-- R100 to R104: the hold phase at a frame start, and the taking of a pending target. -/
def Obligations.HoldStageRules : Prop :=
  ∀ (live : FrameView) (g : Group),
    (g.phase = .free → g.holdStage live = g) ∧
    (g.phase = .captureDue → g.flip = .idle →
      g.holdStage live = { g with phase := .captured, holdAge := 0, capture := some live }) ∧
    (g.phase = .captureDue → g.flip ≠ .idle → g.holdStage live = g) ∧
    (g.phase = .captured → g.holdLimit = 0 ∨ min 65535 (g.holdAge + 1) < g.holdLimit →
      g.holdStage live = { g with holdAge := min 65535 (g.holdAge + 1) }) ∧
    (g.phase = .captured → g.holdLimit ≠ 0 → g.holdLimit ≤ min 65535 (g.holdAge + 1) →
      g.holdStage live =
        { g with commandHold := false, disregarded := g.lineHold, phase := .free, holdAge := 0, capture := none }) ∧
    (g.phase = .releaseDue → g.holdStage live = { g with phase := .free, holdAge := 0, capture := none }) ∧
    (∀ b, g.phase = .free → g.flip = .idle → g.pendingTarget = some b →
      g.takePending = (Group.request b { g with pendingTarget := none }).1) ∧
    (g.phase ≠ .free ∨ g.flip ≠ .idle ∨ g.pendingTarget = none → g.takePending = g)

/-! ## Daypart clock and schedule (chapter 6) -/

/-- R111, R112, R113: CLOCK SET: its refusals, the load, and the resync of each group to the entry that lies the shortest way
back through the week. -/
def Obligations.ClockSetResyncs : Prop :=
  (∀ now occurrence, now < 604800 → occurrence < 604800 →
    backDistance now occurrence = if occurrence ≤ now then now - occurrence else now + 604800 - occurrence) ∧
  (∀ (now : Nat) (e : Entry), now < 604800 → e.time < 86400 → e.days ≠ 0 →
    (∃ d, d < 7 ∧ e.days.getLsbD d = true ∧ e.distance now = backDistance now (d * 86400 + e.time)) ∧
    ∀ d, d < 7 → e.days.getLsbD d = true → e.distance now ≤ backDistance now (d * 86400 + e.time)) ∧
  ∀ (b : List Byte) (s : State), s.Takes →
    (b.length ≠ 0 → b.length ≠ 5 → exec (.clockSet b) s = .next (s.replied 0x60 .badLength [])) ∧
    (b.length = 5 → 6 < u8 b 0 ∨ 86399 < u32 b 1 → exec (.clockSet b) s = .next (s.replied 0x60 .badField [])) ∧
    (b.length = 0 → s.clock.running = false → exec (.clockSet b) s = .next (s.replied 0x60 .wrongState [])) ∧
    ∀ c : Clock,
      (b.length = 0 ∧ s.clock.running = true ∧ c = s.clock) ∨
        (b.length = 5 ∧ u8 b 0 ≤ 6 ∧ u32 b 1 ≤ 86399 ∧ c = { running := true, day := u8 b 0, second := u32 b 1 }) →
      ∃ (chosen : Fin 4 → Option (Nat × Entry)) (groups : Vector Group 4) (body : Fin 4 → List Byte),
        exec (.clockSet b) s =
          .next (({ s with clock := c, groups := groups }).replied 0x60 .done (body 0 ++ body 1 ++ body 2 ++ body 3)) ∧
        ∀ g : Fin 4,
          (chosen g = none →
            (∀ e ∈ s.schedule, e.2.groups.getLsbD g.val = false) ∧ groups[g] = s.groups[g] ∧ body g = [0xFF, 0]) ∧
          ∀ n e, chosen g = some (n, e) →
            (n, e) ∈ s.schedule ∧ e.groups.getLsbD g.val = true ∧
            (∀ f ∈ s.schedule, f.2.groups.getLsbD g.val = true →
              e.distance (c.day * 86400 + c.second) ≤ f.2.distance (c.day * 86400 + c.second)) ∧
            groups[g] = (Group.request e.target s.groups[g]).1 ∧
            body g = [BitVec.ofNat 8 n, BitVec.ofNat 8 (Group.request e.target s.groups[g]).2.code]

/-- R115, R119, R120: CLOCK GET, SCHEDULE DROP and SCHEDULE GET. -/
def Obligations.ClockGetScheduleDropAndGet : Prop :=
  ∀ (b : List Byte) (s : State), s.Takes →
    (b.length ≠ 0 → exec (.clockGet b) s = .next (s.replied 0x61 .badLength [])) ∧
    (b.length = 0 →
      exec (.clockGet b) s =
        .next (s.replied 0x61 .done
          ([if s.clock.running then 1 else 0, BitVec.ofNat 8 s.clock.day] ++ put32 s.clock.second))) ∧
    (b.length ≠ 1 →
      exec (.scheduleDrop b) s = .next (s.replied 0x63 .badLength []) ∧
      exec (.scheduleGet b) s = .next (s.replied 0x64 .badLength [])) ∧
    (b.length = 1 → 31 < u8 b 0 →
      exec (.scheduleDrop b) s = .next (s.replied 0x63 .badField []) ∧
      exec (.scheduleGet b) s = .next (s.replied 0x64 .badField [])) ∧
    (b.length = 1 → u8 b 0 ≤ 31 → Table.find? s.schedule (u8 b 0) = none →
      exec (.scheduleDrop b) s = .next (s.replied 0x63 .noEntry []) ∧
      exec (.scheduleGet b) s = .next (s.replied 0x64 .noEntry [])) ∧
    (b.length = 1 → u8 b 0 ≤ 31 → ∀ e, Table.find? s.schedule (u8 b 0) = some e →
      (Table.Rising s.schedule →
        ∃ schedule : List (Nat × Entry),
          Table.find? schedule (u8 b 0) = none ∧
          (∀ n, n ≠ u8 b 0 → Table.find? schedule n = Table.find? s.schedule n) ∧
          schedule.length + 1 = s.schedule.length ∧
          exec (.scheduleDrop b) s =
            .next (({ s with schedule := schedule }).replied 0x63 .done [BitVec.ofNat 8 schedule.length])) ∧
      exec (.scheduleGet b) s =
        .next (s.replied 0x64 .done
          ([BitVec.ofNat 8 (u8 b 0)] ++ put32 e.time ++
            [BitVec.ofNat 8 e.days.toNat, BitVec.ofNat 8 e.groups.toNat, BitVec.ofNat 8 e.target.code])))

/-- R117, R118: SCHEDULE PUT. -/
def Obligations.SchedulePutWrites : Prop :=
  ∀ (b : List Byte) (s : State), s.Takes →
    (b.length ≠ 8 → exec (.schedulePut b) s = .next (s.replied 0x62 .badLength [])) ∧
    (b.length = 8 →
      31 < u8 b 0 ∨ 86399 < u32 b 1 ∨ u8 b 5 = 0 ∨ 128 ≤ u8 b 5 ∨ u8 b 6 = 0 ∨ 16 ≤ u8 b 6 ∨ 1 < u8 b 7 →
      exec (.schedulePut b) s = .next (s.replied 0x62 .badField [])) ∧
    (b.length = 8 → u8 b 0 ≤ 31 → u32 b 1 ≤ 86399 → 1 ≤ u8 b 5 → u8 b 5 < 128 → 1 ≤ u8 b 6 → u8 b 6 < 16 → u8 b 7 ≤ 1 →
      Table.Rising s.schedule →
      ∃ (new : Entry) (clash : Nat × Entry → Prop),
        new.time = u32 b 1 ∧ new.days.toNat = u8 b 5 ∧ new.groups.toNat = u8 b 6 ∧ new.target.code = u8 b 7 ∧
        (∀ f, clash f ↔
          f ∈ s.schedule ∧ f.1 ≠ u8 b 0 ∧ f.2.time = new.time ∧
          (∃ d, d < 7 ∧ f.2.days.getLsbD d = true ∧ new.days.getLsbD d = true) ∧
          ∃ g, g < 4 ∧ f.2.groups.getLsbD g = true ∧ new.groups.getLsbD g = true) ∧
        (∀ f, clash f → (∀ h, clash h → f.1 ≤ h.1) →
          exec (.schedulePut b) s = .next (s.replied 0x62 .conflict [BitVec.ofNat 8 f.1])) ∧
        ((∀ f, ¬ clash f) →
          ∃ schedule : List (Nat × Entry),
            Table.find? schedule (u8 b 0) = some new ∧
            (∀ n, n ≠ u8 b 0 → Table.find? schedule n = Table.find? s.schedule n) ∧
            schedule.length =
              (if Table.find? s.schedule (u8 b 0) = none then s.schedule.length + 1 else s.schedule.length) ∧
            exec (.schedulePut b) s =
              .next (({ s with schedule := schedule }).replied 0x62 .done
                [BitVec.ofNat 8 (u8 b 0), BitVec.ofNat 8 schedule.length])))

/-- R108, R109, R110: a second tick. -/
def Obligations.SecondTickFires : Prop :=
  ∀ s : State,
    (s.resetPin = true ∨ s.clock.running = false → exec .secondTick s = .next s) ∧
    (s.resetPin = false → s.clock.running = true → s.clock.Ok → ScheduleOk s.schedule →
      ∃ (t : State) (fired : Word) (fires : Nat × Entry → Prop),
        exec .secondTick s = .next t ∧
        t = { s with clock := t.clock, groups := t.groups, notices := t.notices } ∧
        t.clock.running = true ∧
        (s.clock.second < 86399 → t.clock.second = s.clock.second + 1 ∧ t.clock.day = s.clock.day) ∧
        (s.clock.second = 86399 → t.clock.second = 0 ∧ t.clock.day = (s.clock.day + 1) % 7) ∧
        (∀ e, fires e ↔ e ∈ s.schedule ∧ e.2.time = t.clock.second ∧ e.2.days.getLsbD t.clock.day = true) ∧
        (∀ g : Fin 4,
          ((∀ e, fires e → e.2.groups.getLsbD g.val = false) → t.groups[g] = s.groups[g]) ∧
          ∀ e, fires e → e.2.groups.getLsbD g.val = true →
            t.groups[g] = (Group.request e.2.target s.groups[g]).1) ∧
        (∀ n, n < 32 → (fired.getLsbD n = true ↔ ∃ e, fires (n, e))) ∧
        t.notices = (State.raiseSet .scheduleFired fired s).notices)

/-! ## Panel outputs (chapter 7) -/

/-- R122, R123, R130, R137: OUTPUT PUT. The open frame stays: what the output draws changes at the next frame start (R81). -/
def Obligations.OutputPutActs : Prop :=
  ∀ (b : List Byte) (s : State), s.Takes →
    (b.length ≠ 12 → exec (.outputPut b) s = .next (s.replied 0x70 .badLength [])) ∧
    (b.length = 12 →
      3 < u8 b 0 ∨ 1 < u8 b 1 ∨ 7679 < u16 b 2 ∨ 2159 < u16 b 4 ∨ u16 b 6 = 0 ∨ 3840 < u16 b 6 ∨ u16 b 8 = 0 ∨
        2160 < u16 b 8 ∨ 7680 < u16 b 2 + u16 b 6 ∨ 2160 < u16 b 4 + u16 b 8 ∨ 3 < u8 b 10 ∨ 63 < u8 b 11 →
      exec (.outputPut b) s = .next (s.replied 0x70 .badField [])) ∧
    (b.length = 12 → u8 b 1 ≤ 1 → u16 b 2 ≤ 7679 → u16 b 4 ≤ 2159 → 1 ≤ u16 b 6 → u16 b 6 ≤ 3840 → 1 ≤ u16 b 8 →
      u16 b 8 ≤ 2160 → u16 b 2 + u16 b 6 ≤ 7680 → u16 b 4 + u16 b 8 ≤ 2160 → ∀ group : Fin 4, u8 b 10 = group.val →
      ∀ standby : Option (Fin 63), u8 b 11 = (standby.map (·.val + 1)).getD 0 → ∀ k : Fin 4, u8 b 0 = k.val →
      ∀ n : Output,
      n = { s.outputs[k] with
            enabled := decide (u8 b 1 = 1), x := u16 b 2, y := u16 b 4, width := u16 b 6, height := u16 b 8
            group := group, standby := standby } →
      ∃ (r : Output) (notices : Vector Notice 14),
        exec (.outputPut b) s =
          .next (({ s with outputs := s.outputs.set k r, notices := notices }).replied 0x70 .done
            [BitVec.ofNat 8 k.val, BitVec.ofNat 8 r.link.code]) ∧
        notices =
          (if r.link = s.outputs[k].link then s
           else State.raise .panelLink (addMembers (BitVec.ofNat 32 (2 ^ k.val))) s).notices ∧
        ∀ resized fits : Prop,
          (resized ↔ n.width ≠ s.outputs[k].width ∨ n.height ≠ s.outputs[k].height) →
          (fits ↔ ∃ a, n.matched = some a ∧ a.width = n.width ∧ a.height = n.height) →
          (n.enabled = false → r = { n with link := .off }) ∧
          (n.enabled = true →
            (n.link = .off →
              r = { n with link := .offer, run := 0, runAbility := none, silence := 0, ackWait := 0, failures := 0,
                           matched := none }) ∧
            (n.link = .failed → resized →
              r = { n with link := .offer, run := 0, runAbility := none, silence := 0, ackWait := 0, failures := 0 }) ∧
            (n.link = .up → resized → ¬ fits → r = { n with link := .misfit }) ∧
            (n.link = .misfit → resized → fits → r = { n with link := .up }) ∧
            (n.link = .failed → ¬ resized → r = n) ∧ (n.link = .up → ¬ resized ∨ fits → r = n) ∧
            (n.link = .misfit → ¬ resized ∨ ¬ fits → r = n) ∧
            (n.link = .offer ∨ n.link = .matching ∨ n.link = .plain → r = n)))

/-- R124, R137, R139: OUTPUT GET and PANEL RELINK, and the codes of a link state. -/
def Obligations.OutputGetAndRelink : Prop :=
  (LinkState.code .off = 0 ∧ LinkState.code .offer = 1 ∧ LinkState.code .matching = 2 ∧ LinkState.code .up = 3 ∧
    LinkState.code .misfit = 4 ∧ LinkState.code .plain = 5 ∧ LinkState.code .failed = 6) ∧
  ∀ (b : List Byte) (s : State), s.Takes →
    (b.length ≠ 1 →
      exec (.outputGet b) s = .next (s.replied 0x71 .badLength []) ∧
      exec (.panelRelink b) s = .next (s.replied 0x72 .badLength [])) ∧
    (b.length = 1 → 3 < u8 b 0 → exec (.outputGet b) s = .next (s.replied 0x71 .badField [])) ∧
    (b.length = 1 → u8 b 0 = 0 ∨ 16 ≤ u8 b 0 → exec (.panelRelink b) s = .next (s.replied 0x72 .badField [])) ∧
    (b.length = 1 → ∀ k : Fin 4, u8 b 0 = k.val →
      ∃ word : List Byte,
        (s.outputs[k].latest = none → word = [0, 0, 0, 0, 0, 0, 0, 0]) ∧
        (∀ w, s.outputs[k].latest = some w →
          word =
            [1] ++ put16 w.ability.width ++ put16 w.ability.height ++
              [BitVec.ofNat 8 w.ability.rate, (if w.ability.returnCapable then 1 else 0), (if w.fault then 1 else 0)]) ∧
        exec (.outputGet b) s =
          .next (s.replied 0x71 .done
            ([BitVec.ofNat 8 k.val, (if s.outputs[k].enabled then 1 else 0)] ++ put16 s.outputs[k].x ++
              put16 s.outputs[k].y ++ put16 s.outputs[k].width ++ put16 s.outputs[k].height ++
              [BitVec.ofNat 8 s.outputs[k].group.val,
                BitVec.ofNat 8 ((s.outputs[k].standby.map (·.val + 1)).getD 0), BitVec.ofNat 8 s.outputs[k].link.code,
                BitVec.ofNat 8 s.outputs[k].failures, (if s.outputs[k].presence then 1 else 0),
                (if s.outputs[k].faultLatch then 1 else 0), (if s.outputs[k].dropLatch then 1 else 0)] ++ word))) ∧
    (b.length = 1 → 1 ≤ u8 b 0 → u8 b 0 < 16 →
      ∃ (outputs : Vector Output 4) (notices : Vector Notice 14),
        exec (.panelRelink b) s =
          .next (({ s with outputs := outputs, notices := notices }).replied 0x72 .done
            [BitVec.ofNat 8 outputs[0].link.code, BitVec.ofNat 8 outputs[1].link.code,
              BitVec.ofNat 8 outputs[2].link.code, BitVec.ofNat 8 outputs[3].link.code]) ∧
        (∀ k : Fin 4,
          ((u8 b 0).testBit k.val = true → s.outputs[k].enabled = true →
            outputs[k] =
              { s.outputs[k] with
                link := .offer, run := 0, runAbility := none, silence := 0, ackWait := 0, failures := 0, matched := none
                down := [], up := [], faultLatch := false, dropLatch := false }) ∧
          ((u8 b 0).testBit k.val = false ∨ s.outputs[k].enabled = false → outputs[k] = s.outputs[k])) ∧
        notices =
          (State.raiseSet .panelLink (fourWord (fun k => decide (outputs[k].link ≠ s.outputs[k].link))) s).notices)

/-- R129 to R137, R167: an ability word that arrives with a good check, in each link state; and a word with a bad check. The run's
fields after the third equal word, 0 and none, are the model's reading (log 12: R131 has the run reach 3); a muted lane that drops
the word is log 14. -/
def Obligations.AbilityWordHandled : Prop :=
  ∀ (k : Fin 4) (bytes : List Byte) (s : State), bytes.length = 8 →
    (checkGood bytes = false ∨ s.resetPin = true ∨ s.outputs[k].laneMuted = true →
      exec (.abilityWord k bytes) s = .next s) ∧
    (checkGood bytes = true → s.resetPin = false → s.outputs[k].laneMuted = false →
      ∀ (a : Ability) (w : AbilityWord),
      a = { width := u16 bytes 0, height := u16 bytes 2, rate := u8 bytes 4, returnCapable := (u8 bytes 5).testBit 0 } →
      w = { ability := a, fault := (u8 bytes 5).testBit 1, ack := (u8 bytes 5).testBit 2 } →
      ∃ (r : Output) (faulty : State),
        exec (.abilityWord k bytes) s =
          .next { s with
                  outputs := s.outputs.set k r
                  notices :=
                    (if r.link = s.outputs[k].link then faulty
                     else State.raise .panelLink (addMembers (BitVec.ofNat 32 (2 ^ k.val))) faulty).notices } ∧
        faulty =
          (if (s.outputs[k].link = .up ∨ s.outputs[k].link = .misfit) ∧ w.fault = true then
            State.raise .panelFault (addMembers (BitVec.ofNat 32 (2 ^ k.val))) s
           else s) ∧
        ∀ (valid : Prop) (o : Output),
          (valid ↔ 1 ≤ a.width ∧ a.width ≤ 3840 ∧ 1 ≤ a.height ∧ a.height ≤ 2160) →
          o = { s.outputs[k] with latest := some w, silence := 0 } →
          (s.outputs[k].link = .off ∨ s.outputs[k].link = .failed → r = s.outputs[k]) ∧
          (o.link = .offer →
            (w.ack = true ∨ ¬ valid → r = { o with run := 0, runAbility := none }) ∧
            (w.ack = false → valid → o.run = 1 → o.runAbility = some a → r = { o with run := 2 }) ∧
            (w.ack = false → valid → o.run = 2 → o.runAbility = some a →
              r = { o with run := 0, runAbility := none, link := .matching, matched := some a, ackWait := 0 }) ∧
            (w.ack = false → valid → (o.run ≠ 1 ∧ o.run ≠ 2) ∨ o.runAbility ≠ some a →
              r = { o with run := 1, runAbility := some a })) ∧
          (o.link = .matching →
            (w.ack = false → r = o) ∧
            (w.ack = true → valid → o.matched = some a →
              (a.width = o.width ∧ a.height = o.height → r = { o with failures := 0, link := .up }) ∧
              (¬ (a.width = o.width ∧ a.height = o.height) → r = { o with failures := 0, link := .misfit })) ∧
            (w.ack = true → ¬ valid ∨ o.matched ≠ some a →
              (o.failures + 1 < 8 →
                r = { o with failures := o.failures + 1, link := .offer, run := 0, runAbility := none, ackWait := 0 }) ∧
              (8 ≤ o.failures + 1 → r = { o with failures := o.failures + 1, link := .failed }))) ∧
          (o.link = .up ∨ o.link = .misfit → ∀ m, o.matched = some m →
            (valid → a.width = m.width → a.height = m.height →
              r = { o with faultLatch := o.faultLatch || w.fault }) ∧
            (¬ valid ∨ a.width ≠ m.width ∨ a.height ≠ m.height →
              r = { o with faultLatch := o.faultLatch || w.fault, link := .offer, run := 0, runAbility := none, ackWait := 0 })) ∧
          (o.link = .plain →
            (w.ack = true ∨ ¬ valid → r = { o with link := .offer, run := 0, runAbility := none, ackWait := 0 }) ∧
            (w.ack = false → valid → r = { o with link := .offer, run := 1, runAbility := some a, ackWait := 0 })))

/-- R129, R167, R173, R174: panel packets, and units of an unknown kind. -/
def Obligations.PanelUnitsHandled : Prop :=
  ∀ (k : Fin 4) (s : State),
    (∀ kind : Byte, s.resetPin = false → kind ≠ 1 → kind ≠ 2 →
      exec (.unknownUnit k kind) s =
        .next { s with outputs := s.outputs.set k { s.outputs[k] with laneMuted := true } }) ∧
    (∀ bytes : List Byte, checkGood bytes = false ∨ 240 < u8 bytes 1 ∨ s.resetPin = true ∨ s.outputs[k].laneMuted = true →
      exec (.panelPacket k bytes) s = .next s) ∧
    ∀ (code : Byte) (b : List Byte), b.length ≤ 240 → s.resetPin = false → s.outputs[k].laneMuted = false →
      (s.outputs[k].link ≠ .up → s.outputs[k].link ≠ .misfit →
        exec (.panelPacket k (withCheck ([code] ++ put8 b.length ++ b))) s = .next s) ∧
      (s.outputs[k].link = .up ∨ s.outputs[k].link = .misfit →
        (s.outputs[k].up.length < 4 →
          exec (.panelPacket k (withCheck ([code] ++ put8 b.length ++ b))) s =
            .next { s with
                    outputs :=
                      s.outputs.set k { s.outputs[k] with up := s.outputs[k].up ++ [{ code := code, body := b }] } }) ∧
        (4 ≤ s.outputs[k].up.length →
          exec (.panelPacket k (withCheck ([code] ++ put8 b.length ++ b))) s =
            .next (State.raise .relayDrop (addMembers (BitVec.ofNat 32 (2 ^ k.val)))
              { s with
                outputs := s.outputs.set k { s.outputs[k] with upDrops := s.outputs[k].upDrops + 1 } })))

/-! ## The feed (chapter 8) -/

/-- R143, R150, R151, R153, R156: FEED PUT, FEED GET, a signal found and a signal lost. Of the model's choosing are: that the frame
after a signal found has no interval (R141) is kept in markerSeen (log 25), a signal found is noted while the reset pin is asserted
(log 22), and a signal lost ends the completing of its frame in every feed state (log 23). -/
def Obligations.FeedCommandsAndSignal : Prop :=
  (∀ (b : List Byte) (s : State), s.Takes →
    (b.length ≠ 2 → exec (.feedPut b) s = .next (s.replied 0x80 .badLength [])) ∧
    (b.length = 2 → u16 b 0 = 0 → exec (.feedPut b) s = .next (s.replied 0x80 .badField [])) ∧
    (b.length = 2 → u16 b 0 ≠ 0 →
      exec (.feedPut b) s =
        .next (({ s with feed := { s.feed with coastLimit := u16 b 0 } }).replied 0x80 .done (put16 (u16 b 0)))) ∧
    (b.length ≠ 0 → exec (.feedGet b) s = .next (s.replied 0x81 .badLength [])) ∧
    (b.length = 0 → ∀ g, s.feed.geometry = some g →
      exec (.feedGet b) s =
        .next (s.replied 0x81 .done
          ([2] ++ put16 s.feed.coastLimit ++ put16 g.width ++ put16 g.height ++ put32 s.feed.period ++
            put32 s.feed.frameNumber.toNat)))) ∧
  ∀ s : State,
    (s.resetPin = false → s.feed.state = .dark →
      exec .signalFound s =
        .next { s with
                feed := { s.feed with signal := true, markerSeen := false, state := .training, training := .empty } }) ∧
    (s.feed.state ≠ .dark ∨ s.resetPin = true →
      exec .signalFound s = .next { s with feed := { s.feed with signal := true, markerSeen := false } }) ∧
    ∀ (cut : Bool) (t : State),
      (cut = true → s.Reads →
        t = State.raise .marginFault (addFaults 1 0)
          { s with margin := { s.margin with bad := s.margin.bad + 1, stopped := true } }) →
      (cut = false ∨ ¬ s.Reads → t = s) →
      (s.feed.state = .training →
        exec (.signalLost cut) s =
          .next { t with
                  feed := { s.feed with signal := false, state := .dark, training := .empty, coast := 0,
                                        completes := false } }) ∧
      (s.feed.state = .coasting →
        exec (.signalLost cut) s =
          .next { t with feed := { s.feed with signal := false, training := .empty, completes := false } }) ∧
      (s.feed.state = .locked ∨ s.feed.state = .dark →
        exec (.signalLost cut) s = .next { t with feed := { s.feed with signal := false, completes := false } })

/-- R141, R142, R144 to R146, R61: an input frame start in every feed state, and the missing frame. The lock (log 6), the missing
frame and a discarded frame that comes when the timed frame start is overdue (log 26) take a frame start within the same event;
FrameStartTaken and GroupsAtFrameStart say what that does. Of the model's choosing are further: the missing frame outside LOCKED
changes nothing (log 4), when these events come is the sender's (log 19), 0.5 % is exact (log 10), no interval after a signal
found (log 25). -/
def Obligations.InputFrameStartHandled : Prop :=
  (∀ earlier later : Nat,
    intervalsAgree earlier later = true ↔ (later - earlier) * 200 ≤ earlier ∧ (earlier - later) * 200 ≤ earlier) ∧
  (∀ (f : InputFrame) (s : State) (g : Geometry) (supported timed : Prop),
    g = { width := f.width, height := f.height } →
    (supported ↔ 320 ≤ f.width ∧ f.width ≤ 7680 ∧ 240 ≤ f.height ∧ f.height ≤ 2160) →
    (timed ↔ s.feed.markerSeen = true ∧ 16583333 ≤ f.interval ∧ f.interval ≤ 41875000) →
    (s.feed.state = .dark → exec (.inputFrameStart f) s = .next s) ∧
    (s.feed.state = .training ∨ s.feed.state = .coasting →
      (¬ supported →
        exec (.inputFrameStart f) s =
          .next (State.raise .feedChange (addMembers 16)
            { s with feed := { s.feed with training := .empty, markerSeen := true } })) ∧
      (supported → s.feed.training = .empty →
        exec (.inputFrameStart f) s = .next { s with feed := { s.feed with training := .one g, markerSeen := true } }) ∧
      (supported → ∀ g0, s.feed.training = .one g0 →
        (g0 = g → timed →
          exec (.inputFrameStart f) s =
            .next { s with feed := { s.feed with training := .two g f.interval, markerSeen := true } }) ∧
        (g0 ≠ g ∨ ¬ timed →
          exec (.inputFrameStart f) s =
            .next { s with feed := { s.feed with training := .one g, markerSeen := true } })) ∧
      (supported → ∀ g0 period, s.feed.training = .two g0 period →
        (g0 = g → timed → intervalsAgree period f.interval = true →
          ∃ members : Word,
            (∀ i, members.getLsbD i = true ↔
              (i = 0 ∧ s.feed.state = .training) ∨ (i = 1 ∧ s.feed.state = .coasting) ∨
                (i = 2 ∧ s.feed.geometry ≠ some g) ∨ (i = 3 ∧ intervalsAgree s.feed.period period = false)) ∧
            ∃ t : State, exec (.inputFrameStart f) s = .next t ∧
              exec (.frameStart f.pins) (State.raise .feedChange (addMembers members)
                { s with
                  feed := { s.feed with state := .locked, geometry := some g, period := period, coast := 0,
                                        training := .empty, live := f.rows, completes := true, markerSeen := true }
                  margin := { s.margin with read := 0, stopped := false } }) = .next t) ∧
        (g0 ≠ g ∨ ¬ timed ∨ intervalsAgree period f.interval = false →
          exec (.inputFrameStart f) s =
            .next { s with feed := { s.feed with training := .one g, markerSeen := true } }))) ∧
    (s.feed.state = .locked →
      (s.feed.geometry = some g → s.feed.markerSeen = true → intervalsAgree s.feed.period f.interval = true →
        exec (.inputFrameStart f) s =
          .next { s with
                  feed := { s.feed with live := f.rows, completes := true, markerSeen := true }
                  margin := { s.margin with read := 0, stopped := false } }) ∧
      (s.feed.geometry ≠ some g ∨ s.feed.markerSeen = false ∨ intervalsAgree s.feed.period f.interval = false →
        Table.Rising s.slots →
        ∃ slots : List (Nat × Slot),
          (∀ n, (Table.find? slots n).getD Slot.reset = { s.slot n with sample := none }) ∧
          ∀ u : State,
          u = { s with
                feed := { s.feed with state := .coasting, lost := true, coast := 0, training := .empty,
                                      completes := false, markerSeen := true }
                slots := slots } →
          (f.overdue = false → exec (.inputFrameStart f) s = .next u) ∧
          (f.overdue = true →
            ∃ t : State, exec (.inputFrameStart f) s = .next t ∧ exec (.frameStart f.pins) u = .next t)))) ∧
  ∀ (pins : FramePins) (s : State),
    (s.feed.state ≠ .locked → exec (.missingFrame pins) s = .next s) ∧
    (s.feed.state = .locked → Table.Rising s.slots →
      ∃ (slots : List (Nat × Slot)) (t : State),
        (∀ n, (Table.find? slots n).getD Slot.reset = { s.slot n with sample := none }) ∧
        exec (.missingFrame pins) s = .next t ∧
        exec (.frameStart pins)
          { s with
            feed := { s.feed with state := .coasting, lost := true, coast := 0, training := .empty, completes := false }
            slots := slots } = .next t ∧
        (s.resetPin = false → 1 ≤ s.feed.coastLimit →
          t.feed =
            { s.feed with state := .coasting, lost := true, coast := 1, training := .empty, completes := false
                          frameNumber := s.feed.frameNumber + 1 }))

/-- R148, R59 to R62: an input frame that completes becomes the last good frame and runs the photo watch; a frame that cannot
complete does nothing. -/
def Obligations.InputFrameCompletes : Prop :=
  (∀ (t : Fin 8) (p q : Colour), coloursAgree t p q = true ↔
    p.r.toNat / 2 ^ t.val = q.r.toNat / 2 ^ t.val ∧ p.g.toNat / 2 ^ t.val = q.g.toNat / 2 ^ t.val ∧
      p.b.toNat / 2 ^ t.val = q.b.toNat / 2 ^ t.val) ∧
  (∀ (p : Picture) (x y : Nat),
    p.pixel x y =
      if x < p.geometry.width ∧ y < p.geometry.height then (p.rows.getD y []).getD x { r := 0, g := 0, b := 0 }
      else { r := 0, g := 0, b := 0 }) ∧
  (∀ slots : List (Nat × Slot), missingCount slots = slots.countP (fun e => e.2.missing)) ∧
  ∀ s : State,
    (s.feed.state ≠ .locked ∨ s.feed.completes = false ∨
        (∃ g, s.feed.geometry = some g ∧ s.feed.live.length ≠ g.height) →
      exec .inputFrameComplete s = .next s ∧ ∀ n, exec (.watchFramesReached n) s = .next s) ∧
    ∀ (g : Geometry) (p : Picture), s.feed.state = .locked → s.feed.completes = true → s.feed.geometry = some g →
      s.feed.live.length = g.height → SlotsOk s.slots → p = { geometry := g, rows := s.feed.live } →
      ∃ t : State,
        exec .inputFrameComplete s = .next t ∧
        t = { s with
              feed := { s.feed with lastGood := some p, completes := false }, slots := t.slots, notices := t.notices } ∧
        ((∀ n, (t.slot n).missing = (s.slot n).missing) → t.notices = s.notices) ∧
        ((∃ n, (t.slot n).missing ≠ (s.slot n).missing) →
          t.notices = (State.raise .photoWatch (fun _ => BitVec.ofNat 32 (missingCount t.slots)) s).notices) ∧
        (∀ n, ((s.slot n).record = none → t.slot n = s.slot n)) ∧
        (∀ n r, (s.slot n).record = some r →
          ∀ (seen : Sample) (holds : Prop),
          seen =
            { lt := p.pixel (r.x + r.width / 4) (r.y + r.height / 4)
              rt := p.pixel (r.x + 3 * r.width / 4) (r.y + r.height / 4)
              lb := p.pixel (r.x + r.width / 4) (r.y + 3 * r.height / 4)
              rb := p.pixel (r.x + 3 * r.width / 4) (r.y + 3 * r.height / 4) } →
          (r.watchMode = .off → t.slot n = s.slot n) ∧
          (r.watchMode = .still → (s.slot n).sample = none → t.slot n = { s.slot n with sample := some seen }) ∧
          ((r.watchMode = .matching ∧
              (holds ↔
                coloursAgree r.tolerance seen.lt r.watchColour = true ∧
                coloursAgree r.tolerance seen.rt r.watchColour = true ∧
                coloursAgree r.tolerance seen.lb r.watchColour = true ∧
                coloursAgree r.tolerance seen.rb r.watchColour = true)) ∨
            (r.watchMode = .still ∧ ∃ before, (s.slot n).sample = some before ∧
              (holds ↔
                coloursAgree r.tolerance seen.lt before.lt = true ∧ coloursAgree r.tolerance seen.rt before.rt = true ∧
                coloursAgree r.tolerance seen.lb before.lb = true ∧
                coloursAgree r.tolerance seen.rb before.rb = true)) →
            (¬ holds → t.slot n = { s.slot n with counter := 0, missing := false, sample := some seen }) ∧
            (holds →
              t.slot n =
                { s.slot n with
                  counter := min r.watchFrames ((s.slot n).counter + 1)
                  missing := decide (r.watchFrames ≤ (s.slot n).counter + 1)
                  sample := some seen }) ∧
            ∀ i : Fin 256, i.val = n → holds → (s.slot n).missing = false →
              r.watchFrames ≤ (s.slot n).counter + 1 → exec (.watchFramesReached i) s = .next t)) ∧
        ∀ i : Fin 256, (s.slot i.val).missing = true ∨ (t.slot i.val).missing = false →
          exec (.watchFramesReached i) s = .next s

/-! ## The frame start (R146) -/

/-- R121, R125, R129 to R135, R138, R167, R172: an output's link work at a frame start, and the frame it then begins. -/
def Obligations.OutputsAtFrameStart : Prop :=
  ∀ (present : Bool) (o n : Output), n = { o with presence := present, laneMuted := false } →
    (o.link = .off ∨ o.link = .failed → o.atFrame present = n) ∧
    (o.link = .offer →
      (present = false → o.atFrame present = { n with silence := 0, run := 0, runAbility := none }) ∧
      (present = true → o.silence + 1 < 60 → o.atFrame present = { n with silence := o.silence + 1 }) ∧
      (present = true → 60 ≤ o.silence + 1 →
        o.atFrame present = { n with silence := o.silence + 1, link := .plain })) ∧
    (o.link = .matching →
      (present = false →
        o.atFrame present = { n with link := .offer, run := 0, runAbility := none, silence := 0, ackWait := 0 }) ∧
      (present = true → o.ackWait + 1 < 30 → o.atFrame present = { n with ackWait := o.ackWait + 1 }) ∧
      (present = true → 30 ≤ o.ackWait + 1 →
        (o.failures + 1 < 8 →
          o.atFrame present =
            { n with failures := o.failures + 1, link := .offer, run := 0, runAbility := none, silence := 0,
                     ackWait := 0 }) ∧
        (8 ≤ o.failures + 1 →
          o.atFrame present =
            { n with failures := o.failures + 1, link := .failed, ackWait := o.ackWait + 1 }))) ∧
    (o.link = .up ∨ o.link = .misfit →
      (present = true → o.silence + 1 < 10 → o.atFrame present = { n with silence := o.silence + 1 }) ∧
      (present = false ∨ 10 ≤ o.silence + 1 →
        o.atFrame present =
          { n with link := .offer, run := 0, runAbility := none, silence := 0, ackWait := 0, dropLatch := true })) ∧
    (o.link = .plain →
      (present = true → o.atFrame present = n) ∧
      (present = false →
        o.atFrame present = { n with link := .offer, run := 0, runAbility := none, silence := 0, ackWait := 0 })) ∧
    (o.enabled = false → o.frame = none) ∧
    (o.enabled = true → o.link = .misfit → ∀ a, o.matched = some a →
      o.frame =
        some { rasterWidth := a.width, rasterHeight := a.height, x := o.x, y := o.y, width := o.width, height := o.height
               group := o.group, standby := o.standby, margin := put16 o.width ++ put16 o.height ++ [1] }) ∧
    (o.enabled = true → o.link ≠ .misfit →
      o.frame =
        some { rasterWidth := o.width, rasterHeight := o.height, x := o.x, y := o.y, width := o.width, height := o.height
               group := o.group, standby := o.standby
               margin :=
                 put16 o.width ++ put16 o.height ++ [if o.link = .matching ∨ o.link = .up then 1 else 0] ++
                   (if o.link = .up then (o.down.take 4).flatten else []) }) ∧
    (o.link = .up → o.afterPlacing = { o with down := o.down.drop 4 }) ∧
    (o.link ≠ .up → o.afterPlacing = o)

/-- R146, R147, R64, R125, R138, R148: a frame start: the frame number, the coast, every output's work, the stock line samples
and the frame that opens; which other blocks change. -/
def Obligations.FrameStartTaken : Prop :=
  ∀ (pins : FramePins) (s : State), s.resetPin = false →
    ∃ t : State,
      exec (.frameStart pins) s = .next t ∧
      t = { s with
            feed := t.feed, outputs := t.outputs, lines := t.lines, groups := t.groups, slots := t.slots
            notices := t.notices, pictures := t.pictures, frame := t.frame } ∧
      (s.feed.state ≠ .coasting → t.feed = { s.feed with frameNumber := s.feed.frameNumber + 1 }) ∧
      (s.feed.state = .coasting →
        (s.feed.coast + 1 ≤ s.feed.coastLimit →
          t.feed = { s.feed with frameNumber := s.feed.frameNumber + 1, coast := s.feed.coast + 1 }) ∧
        (s.feed.coastLimit < s.feed.coast + 1 →
          t.feed =
            { s.feed with
              frameNumber := s.feed.frameNumber + 1, coast := 0, training := .empty
              state := if s.feed.signal then .training else .dark })) ∧
      (∀ k : Fin 4, t.outputs[k] = (s.outputs[k].atFrame (pins.presence.getLsbD k.val)).afterPlacing) ∧
      (∀ i : Fin 8, t.lines[i] = s.lines[i].sampled (pins.lines.getLsbD i.val)) ∧
      ∃ f : OpenFrame, t.frame = some f ∧ f.art = s.art ∧
        (∀ k : Fin 4, f.outputs[k] = (s.outputs[k].atFrame (pins.presence.getLsbD k.val)).frame) ∧
        (t.feed.state = .dark ∨ t.feed.state = .training → f.canvas = none) ∧
        (∀ g, s.feed.geometry = some g →
          (t.feed.state = .locked →
            f.canvas = some { geometry := g, live := s.feed.live, back := s.feed.lastGood }) ∧
          (t.feed.state = .coasting → f.canvas = some { geometry := g, live := [], back := s.feed.lastGood }))

/-- R34, R44, R45, R54 to R56, R67, R69, R70, R81, R89, R96, R97, R101, R104, R147: the groups, the slots' fit outcomes, the
pictures and the notices at a frame start; the slots of a frame view; when a group draws its capture and when its hold limit
applies. The debounced changes of one frame start are one event (log 13). -/
def Obligations.GroupsAtFrameStart : Prop :=
  (∀ (s : State) (b : Bank), Table.Rising s.slots →
    Table.Rising (frameView s b) ∧ ∀ n, Table.find? (frameView s b) n = slotView s b (s.slot n)) ∧
  (∀ g : Group,
    (g.drawsCapture = true ↔ g.phase = .captured ∧ (g.holdLimit = 0 ∨ min 65535 (g.holdAge + 1) < g.holdLimit)) ∧
    (g.limitApplies = true ↔ g.phase = .captured ∧ g.holdLimit ≠ 0 ∧ g.holdLimit ≤ min 65535 (g.holdAge + 1))) ∧
  ∀ (pins : FramePins) (s : State), s.resetPin = false → Table.Rising s.slots →
    ∃ (t : State) (ready : Fin 4 → Bool) (changes : Fin 8 → Bool) (stage : Fin 4 → Group × FlipEvent)
        (after landed : Fin 4 → Group) (flips : List (Fin 8)),
      exec (.frameStart pins) s = .next t ∧
      (∀ g, ready g = true ↔ ∀ k : Fin 4, ∀ o, o = s.outputs[k].atFrame (pins.presence.getLsbD k.val) →
        o.enabled = true → o.group = g → o.link = .up ∨ o.link = .plain) ∧
      (∀ g, stage g = s.groups[g].flipStage (ready g)) ∧
      (∀ g, after g = ((stage g).1.holdStage (frameView s (stage g).1.shown)).takePending) ∧
      (∀ i : Fin 8, changes i = true ↔
        (decide (pins.lines.getLsbD i.val = s.lines[i].activeHigh) ≠ s.lines[i].active ∧
          s.lines[i].debounce ≤ s.lines[i].run + 1)) ∧
      (∀ g, ∃ named quiet : LineSet,
        (∀ i : Fin 8,
          (named.getLsbD i.val =
            if changes i = true then
              t.lines[i].inForce && decide (t.lines[i].function = .groupHold) && t.lines[i].groups.getLsbD g.val
            else (after g).lineHold.getLsbD i.val) ∧
          (quiet.getLsbD i.val = ((after g).disregarded.getLsbD i.val && !changes i))) ∧
        landed g = (after g).sourcesChanged { after g with lineHold := named, disregarded := quiet }) ∧
      flips =
        (List.finRange 8).filter
          (fun i => changes i && decide (s.lines[i].function = .groupFlip) && t.lines[i].inForce) ∧
      (∀ g : Fin 4,
        t.groups[g] =
          (flips.filter (fun i => s.lines[i].groups.getLsbD g.val)).foldl
            (fun x i => (Group.request s.lines[i].target x).1) (landed g)) ∧
      (∀ g : Fin 4,
        ((stage g).1.drawsCapture = true → ∀ v, (stage g).1.capture = some v → t.pictures[g] = .single v) ∧
        ((stage g).1.drawsCapture = false →
          ((stage g).1.flip ≠ .fading → t.pictures[g] = .single (frameView s (stage g).1.shown)) ∧
          ∀ b, (stage g).1.flip = .fading → (stage g).1.target = some b →
            t.pictures[g] =
              .fading (frameView s (stage g).1.shown) (frameView s b) (stage g).1.fadeStep (stage g).1.fadeLength)) ∧
      viewOutcome none = .nothing ∧
      (∀ v : SlotView, (v.price = none → viewOutcome (some v) = .nothing) ∧
        ∀ p, v.price = some p → viewOutcome (some v) = p.outcome) ∧
      (∀ n, ∃ fit : Vector FitOutcome 4, t.slot n = { s.slot n with fit := fit } ∧
        ∀ g : Fin 4,
          ((stage g).1.drawsCapture = true → fit[g] = (s.slot n).fit[g]) ∧
          ((stage g).1.drawsCapture = false →
            ((stage g).1.flip ≠ .fading → fit[g] = viewOutcome (slotView s (stage g).1.shown (s.slot n))) ∧
            ∀ b, (stage g).1.flip = .fading → (stage g).1.target = some b →
              fit[g] = viewOutcome (slotView s b (s.slot n)))) ∧
      ∃ faults : List Nat,
        (∀ n, n ∈ faults ↔ ∃ g : Fin 4,
          ((t.slot n).fit[g] = .dashed ∨ (t.slot n).fit[g] = .blank) ∧ (t.slot n).fit[g] ≠ (s.slot n).fit[g]) ∧
        t.notices =
          (State.countAvail
            (s.items.countP (fun e => e.2.notify && e.2.mergedSoldOut s.lines != e.2.mergedSoldOut t.lines))
            (State.raiseFaults faults
              (State.raiseSet .holdLimit (fourWord (fun g => (stage g).1.limitApplies))
                (State.raiseSet .flipAbandoned (fourWord (fun g => decide ((stage g).2 = .abandoned)))
                  (State.raiseSet .flipDone (fourWord (fun g => flipDone (stage g).1 (stage g).2))
                    (State.raiseSet .panelLink
                      (fourWord (fun k => decide
                        ((s.outputs[k].atFrame (pins.presence.getLsbD k.val)).link ≠ s.outputs[k].link)))
                      (if s.feed.state = .coasting ∧ s.feed.coastLimit < s.feed.coast + 1 then
                        State.raise .feedDark (fun _ => 0) s
                       else s))))))).notices

/-- R65, R131, R132, R134, R147: the frame starts that the table names by what comes about at them in the lines, the feed and the
outputs; the event named when it is not due changes nothing (the model's choice, log 4). -/
def Obligations.ThresholdFrameStarts : Prop :=
  ∀ (pins : FramePins) (s : State), s.resetPin = false →
    ∃ t : State, exec (.frameStart pins) s = .next t ∧
      (∀ (i : Fin 8) (due : Prop),
        (due ↔ decide (pins.lines.getLsbD i.val = s.lines[i].activeHigh) ≠ s.lines[i].active ∧
          s.lines[i].debounce ≤ s.lines[i].run + 1) →
        (due → exec (.debouncedChange i pins) s = .next t ∧ t.lines[i].active = !s.lines[i].active ∧ t.lines[i].run = 0) ∧
        (¬ due → exec (.debouncedChange i pins) s = .next s)) ∧
      (∀ due : Prop, (due ↔ s.feed.state = .coasting ∧ s.feed.coastLimit < s.feed.coast + 1) →
        (due →
          exec (.coastLimit pins) s = .next t ∧ t.feed.coast = 0 ∧
            t.feed.state = if s.feed.signal then .training else .dark) ∧
        (¬ due → exec (.coastLimit pins) s = .next s)) ∧
      ∀ (k : Fin 4) (present : Prop), (present ↔ pins.presence.getLsbD k.val = true) →
        (present ∧ s.outputs[k].link = .offer ∧ 60 ≤ s.outputs[k].silence + 1 →
          exec (.silenceToPlain k pins) s = .next t ∧ t.outputs[k].link = .plain) ∧
        (¬ (present ∧ s.outputs[k].link = .offer ∧ 60 ≤ s.outputs[k].silence + 1) →
          exec (.silenceToPlain k pins) s = .next s) ∧
        (present ∧ s.outputs[k].link = .matching ∧ 30 ≤ s.outputs[k].ackWait + 1 →
          exec (.ackWaitFailure k pins) s = .next t ∧ t.outputs[k].failures = s.outputs[k].failures + 1 ∧
            t.outputs[k].link = if 8 ≤ s.outputs[k].failures + 1 then .failed else .offer) ∧
        (¬ (present ∧ s.outputs[k].link = .matching ∧ 30 ≤ s.outputs[k].ackWait + 1) →
          exec (.ackWaitFailure k pins) s = .next s) ∧
        (present ∧ (s.outputs[k].link = .up ∨ s.outputs[k].link = .misfit) ∧ 10 ≤ s.outputs[k].silence + 1 →
          exec (.upSilenceDrop k pins) s = .next t ∧ t.outputs[k].link = .offer ∧ t.outputs[k].dropLatch = true) ∧
        (¬ (present ∧ (s.outputs[k].link = .up ∨ s.outputs[k].link = .misfit) ∧ 10 ≤ s.outputs[k].silence + 1) →
          exec (.upSilenceDrop k pins) s = .next s)

/-- R90, R93, R94, R104: the frame starts that the table names by what comes about at them in a group; the event named when it
is not due changes nothing (the model's choice, log 4). -/
def Obligations.GroupThresholdFrameStarts : Prop :=
  ∀ (pins : FramePins) (s : State), s.resetPin = false →
    ∃ t : State, exec (.frameStart pins) s = .next t ∧
      ∀ (g : Fin 4) (ready overdue : Prop),
        (ready ↔ ∀ k : Fin 4, ∀ o, o = s.outputs[k].atFrame (pins.presence.getLsbD k.val) →
          o.enabled = true → o.group = g → o.link = .up ∨ o.link = .plain) →
        (overdue ↔ (s.groups[g].flip = .waiting ∨ s.groups[g].flip = .settling) ∧ s.groups[g].timeoutFrames ≠ 0 ∧
          s.groups[g].timeoutFrames ≤ min 65535 (s.groups[g].age + 1)) →
        (overdue → exec (.flipTimeout g pins) s = .next t) ∧
        (overdue → s.groups[g].force = false → t.groups[g].shown = s.groups[g].shown) ∧
        (¬ overdue → exec (.flipTimeout g pins) s = .next s) ∧
        (∀ executes : Prop,
          (executes ↔ (overdue ∧ s.groups[g].force = true) ∨
            (¬ overdue ∧ ready ∧ ((s.groups[g].flip = .waiting ∧ s.groups[g].settleFrames = 0) ∨
              (s.groups[g].flip = .settling ∧ s.groups[g].settle ≤ 1)))) →
          (executes →
            exec (.flipExecute g pins) s = .next t ∧
            (s.groups[g].fadeFrames = 0 → ∀ b, s.groups[g].target = some b → t.groups[g].shown = b) ∧
            (s.groups[g].fadeFrames ≠ 0 →
              t.groups[g].flip = .fading ∧ t.groups[g].fadeStep = 1 ∧ t.groups[g].fadeLength = s.groups[g].fadeFrames ∧
                t.groups[g].shown = s.groups[g].shown)) ∧
          (¬ executes → exec (.flipExecute g pins) s = .next s)) ∧
        (s.groups[g].flip = .fading ∧ s.groups[g].fadeLength < s.groups[g].fadeStep + 1 →
          exec (.fadeComplete g pins) s = .next t ∧ ∀ b, s.groups[g].target = some b → t.groups[g].shown = b) ∧
        (¬ (s.groups[g].flip = .fading ∧ s.groups[g].fadeLength < s.groups[g].fadeStep + 1) →
          exec (.fadeComplete g pins) s = .next s) ∧
        (∀ due : Prop,
          (due ↔ s.groups[g].phase = .captured ∧ s.groups[g].holdLimit ≠ 0 ∧
            s.groups[g].holdLimit ≤ min 65535 (s.groups[g].holdAge + 1)) →
          (due →
            exec (.holdLimitApplies g pins) s = .next t ∧ t.groups[g].commandHold = false ∧
              t.groups[g].capture = none) ∧
          (¬ due → exec (.holdLimitApplies g pins) s = .next s))

/-- R25, R32, R33, R44 to R46, R50, R51, R53, R55, R125 to R128, R148, R163, R164, R167: the pixels and the margin bytes that an
output sends, down to the card, glyph and ink that each pixel comes from; between a full reset and the next frame start, where
no frame is open, black or no signal (log 16). That the margin's filler goes on at every offset is the model's choice, since the
spec gives the margin no length (DESIGN CHOICE, log 27). -/
def Obligations.PixelsSent : Prop :=
  black = { r := 0, g := 0, b := 0 } ∧
  (∀ (s : State) (k : Fin 4) (col row offset : Nat), s.frame = none →
    s.marginByte k offset = none ∧
    (s.resetPin = false → s.outputs[k].enabled = true → col < s.outputs[k].width → row < s.outputs[k].height →
      s.outputPixel k col row = some black) ∧
    (s.resetPin = true ∨ s.outputs[k].enabled = false ∨ s.outputs[k].width ≤ col ∨ s.outputs[k].height ≤ row →
      s.outputPixel k col row = none)) ∧
  (∀ (s : State) (k : Fin 4) (col row offset : Nat) (f : OpenFrame), s.frame = some f →
    (f.outputs[k] = none → s.outputPixel k col row = none ∧ s.marginByte k offset = none) ∧
    ∀ o, f.outputs[k] = some o →
      s.marginByte k offset = some (o.margin.getD offset 0xFF) ∧
      (o.rasterWidth ≤ col ∨ o.rasterHeight ≤ row → s.outputPixel k col row = none) ∧
      (col < o.rasterWidth → row < o.rasterHeight →
        (f.canvas = none → o.standby = none → s.outputPixel k col row = some black) ∧
        (∀ c, f.canvas = none → o.standby = some c → readyCard f.art c = none →
          s.outputPixel k col row = some black) ∧
        (∀ c w h fill pixels, f.canvas = none → o.standby = some c → readyCard f.art c = some (w, h, fill, pixels) →
          s.outputPixel k col row =
            some (overCard w h pixels (col - ((o.rasterWidth : Int) - w) / 2) (row - ((o.rasterHeight : Int) - h) / 2)
              black)) ∧
        ∀ c, f.canvas = some c →
          (col < o.width → row < o.height → o.x + col < c.geometry.width → o.y + row < c.geometry.height →
            s.outputPixel k col row = some (s.pictures[o.group].pixel f.art c (o.x + col) (o.y + row))) ∧
          (o.width ≤ col ∨ o.height ≤ row ∨ c.geometry.width ≤ o.x + col ∨ c.geometry.height ≤ o.y + row →
            s.outputPixel k col row = some black))) ∧
  (∀ (c : Canvas) (x y : Nat),
    (∀ r, c.live[y]? = some r → c.pixel x y = r.getD x black) ∧
    (c.live.length ≤ y → c.back = none → c.pixel x y = black) ∧
    ∀ p, c.live.length ≤ y → c.back = some p →
      (p.geometry.width ≤ x ∨ p.geometry.height ≤ y → c.pixel x y = black) ∧
      (x < p.geometry.width → y < p.geometry.height → c.pixel x y = (p.rows.getD y []).getD x black)) ∧
  (∀ (art : Art) (v : SlotView) (x y : Nat) (under : Colour),
    (x < v.record.x ∨ v.record.x + v.record.width ≤ x ∨ y < v.record.y ∨ v.record.y + v.record.height ≤ y →
      v.drawAt art x y under = under) ∧
    (v.record.x ≤ x → x < v.record.x + v.record.width → v.record.y ≤ y → y < v.record.y + v.record.height →
      v.drawAt art x y under =
        drawBadge art v.record v.badge (x - v.record.x) (y - v.record.y)
          (drawPrice art v.record v.price (x - v.record.x) (y - v.record.y)
            (drawAction art v.record v.action (x - v.record.x) (y - v.record.y) under)))) ∧
  (∀ (art : Art) (v : FrameView) (n : Nat) (w : SlotView) (x y : Nat) (under : Colour),
    FrameView.drawAt art [] x y under = under ∧
      FrameView.drawAt art (v ++ [(n, w)]) x y under = w.drawAt art x y (FrameView.drawAt art v x y under)) ∧
  (∀ (art : Art) (c : Canvas) (leaving entering : FrameView) (k F x y : Nat),
    (GroupPicture.single leaving).pixel art c x y = FrameView.drawAt art leaving x y (c.pixel x y) ∧
    (GroupPicture.fading leaving entering k F).pixel art c x y =
      fadeColour k F (FrameView.drawAt art leaving x y (c.pixel x y))
        (FrameView.drawAt art entering x y (c.pixel x y))) ∧
  (∀ (art : Art) (k : Fin 63) (w h : Nat) (fill : Colour) (pixels : List Byte),
    readyCard art k = some (w, h, fill, pixels) ↔
      Table.find? art (k.val + 4) = some { ready := true, shape := .card w h fill, content := pixels }) ∧
  (∀ (art : Art) (n : Fin 4) (h : Nat) (advances : List Nat) (image : List Byte),
    readyGlyphSet art n = some (h, advances, image) ↔
      Table.find? art n.val = some { ready := true, shape := .glyphSet h advances, content := image }) ∧
  (∀ (w h : Nat) (pixels : List Byte) (dx dy : Int) (under : Colour),
    (dx < 0 ∨ (w : Int) ≤ dx ∨ dy < 0 ∨ (h : Int) ≤ dy → overCard w h pixels dx dy under = under) ∧
    ∀ col row first : Nat, dx = col → dy = row → col < w → row < h → first = 4 * (row * w + col) →
      overCard w h pixels dx dy under =
        blendOver under { r := pixels.getD (first + 1) 0, g := pixels.getD (first + 2) 0, b := pixels.getD (first + 3) 0 }
          (pixels.getD first 0).toNat) ∧
  (∀ (art : Art) (r : SlotRecord) (x y : Nat) (under : Colour),
    drawAction art r .nothing x y under = under ∧
    (∀ level, drawAction art r (.dim level) x y under = dimColour level under) ∧
    (∀ colour, drawAction art r (.coverFallback colour) x y under = colour) ∧
    (∀ k w h fill pixels, readyCard art k = some (w, h, fill, pixels) →
      drawAction art r (.coverCard k) x y under =
        overCard w h pixels ((x : Int) - ((r.width : Int) - w) / 2) ((y : Int) - ((r.height : Int) - h) / 2) fill) ∧
    drawBadge art r none x y under = under ∧
    ∀ k, (readyCard art k = none → drawBadge art r (some k) x y under = under) ∧
      ∀ w h fill pixels, readyCard art k = some (w, h, fill, pixels) →
        drawBadge art r (some k) x y under =
          overCard w h pixels ((x : Int) - r.badgeX) ((y : Int) - r.badgeY) under) ∧
  (∀ (art : Art) (r : SlotRecord) (x y : Nat) (under : Colour),
    drawPrice art r none x y under = under ∧
    ∀ p : PriceDraw,
      (p.outcome = .nothing ∨ p.outcome = .noArt ∨ readyGlyphSet art p.glyphSet = none →
        drawPrice art r (some p) x y under = under) ∧
      ∀ h advances image, readyGlyphSet art p.glyphSet = some (h, advances, image) →
        (x < r.fieldX ∨ r.fieldX + r.fieldW ≤ x ∨ y < r.fieldY ∨ r.fieldY + h ≤ y →
          drawPrice art r (some p) x y under = under) ∧
        ∀ (col row start : Nat) (background : Colour),
          p.outcome = .drawn ∨ p.outcome = .trimmed ∨ p.outcome = .dashed ∨ p.outcome = .blank →
          x = r.fieldX + col → y = r.fieldY + row → col < r.fieldW → row < h →
          background = (if r.paperClear then under else r.paper) →
          (r.align = .left ∧ start = 0) ∨ (r.align = .right ∧ start = r.fieldW - sequenceWidth advances p.glyphs) ∨
            (r.align = .centre ∧ start = (r.fieldW - sequenceWidth advances p.glyphs) / 2) →
          (col < start ∨ start + sequenceWidth advances p.glyphs ≤ col →
            drawPrice art r (some p) x y under = background) ∧
          ∀ (before after : List Nat) (g within : Nat), p.glyphs = before ++ g :: after →
            within < advances.getD g 0 → col = start + sequenceWidth advances before + within →
            drawPrice art r (some p) x y under =
              blendOver background r.ink
                (image.getD (row * advances.sum + (advances.take g).sum + within) 0).toNat) ∧
  (∀ n d, 0 < d → 2 * n < 2 * d * nearest n d + d ∧ 2 * d * nearest n d ≤ 2 * n + d) ∧
  ∀ (p q : Colour) (a k F level : Nat) (part : Colour → Byte), a ≤ 255 → k ≤ F + 1 → level ≤ 8 →
    part = Colour.r ∨ part = Colour.g ∨ part = Colour.b →
    (part (blendOver p q a)).toNat = nearest ((part p).toNat * (255 - a) + (part q).toNat * a) 255 ∧
    (part (fadeColour k F p q)).toNat = nearest ((part p).toNat * (F + 1 - k) + (part q).toNat * k) (F + 1) ∧
    (part (dimColour level p)).toNat = (part p).toNat * (8 - level) / 8

/-! ## STATUS and the return lane (chapter 10) -/

/-- R177, R178: STATUS returns its snapshot, 83 bytes, and then clears the latches. -/
def Obligations.StatusSnapshot : Prop :=
  ∀ (b : List Byte) (s : State), s.Takes →
    (b.length ≠ 0 → exec (.status b) s = .next (s.replied 0x90 .badLength [])) ∧
    (b.length = 0 →
      ∃ (drops latches : Fin 4 → List Byte) (groups : Fin 4 → List Byte) (body : List Byte) (outputs : Vector Output 4),
        (∀ k, drops k = put32 s.outputs[k].downDrops.toNat ++ put32 s.outputs[k].upDrops.toNat) ∧
        (∀ k, latches k =
          [BitVec.ofNat 8 s.outputs[k].link.code, (if s.outputs[k].dropLatch then 1 else 0),
            (if s.outputs[k].faultLatch then 1 else 0)]) ∧
        (∀ g, groups g =
          [BitVec.ofNat 8 s.groups[g].shown.code, BitVec.ofNat 8 s.groups[g].flip.code,
            (if s.groups[g].phase = .free then 0 else 1)]) ∧
        body =
          put32 s.feed.frameNumber.toNat ++ [2, if s.feed.lost then 1 else 0] ++ put32 (s.margin.taken + 1).toNat ++
            put32 s.margin.bad.toNat ++ put32 s.margin.turnedAway.toNat ++
            (drops 0 ++ drops 1 ++ drops 2 ++ drops 3) ++ (latches 0 ++ latches 1 ++ latches 2 ++ latches 3) ++
            (groups 0 ++ groups 1 ++ groups 2 ++ groups 3) ++
            ([if s.clock.running then 1 else 0, BitVec.ofNat 8 s.clock.day] ++ put32 s.clock.second) ++
            put16 (freeBlocks s.art) ++ [BitVec.ofNat 8 s.margin.replies.length] ∧
        body.length = 83 ∧
        (∀ k : Fin 4, outputs[k] = { s.outputs[k] with faultLatch := false, dropLatch := false }) ∧
        exec (.status b) s =
          .next (({ s with feed := { s.feed with lost := false }, outputs := outputs }).replied 0x90 .done body))

/-- R166, R168, R169, R170, R173: what the return arbiter sends in a return slot, and what leaves its queue or its source. -/
def Obligations.ReturnSlotServes : Prop :=
  ([ResultCode.done, .badLength, .badField, .noEntry, .full, .conflict, .inUse, .wrongState, .badCheck,
      .unknownCommand].map ResultCode.code = List.range 10) ∧
  ∀ (s : State) (hasReply hasRelay hasNotice : Prop), s.Locked →
    (hasReply ↔ s.margin.replies ≠ []) → (hasRelay ↔ ∃ k : Fin 4, s.outputs[k].up ≠ []) →
    (hasNotice ↔ ∃ i : Fin 14, 2 ≤ i.val ∧ s.notices[i].held ≠ none) →
    (∀ (i : Fin 14) (d : Word), s.notices[i].held = some d → i.val = 0 ∨ (i.val = 1 ∧ s.notices[0].held = none) →
      exec .returnSlot s =
        .next { s with
                notices := s.notices.set i { priority := s.notices[i].priority, held := none }
                lane :=
                  { s.lane with
                    sent :=
                      some (withCheck ([2, BitVec.ofNat 8 (i.val + 1), 0, 9] ++
                        [BitVec.ofNat 8 s.notices[i].priority] ++ put32 d.toNat ++ put32 s.feed.frameNumber.toNat)) } }) ∧
    (s.notices[0].held = none → s.notices[1].held = none →
      (∀ r rest, s.margin.replies = r :: rest →
        s.lane.classPointer = .reply ∨ (s.lane.classPointer = .relay ∧ ¬ hasRelay ∧ ¬ hasNotice) ∨
          (s.lane.classPointer = .notice ∧ ¬ hasNotice) →
        exec .returnSlot s =
          .next { s with
                  margin := { s.margin with replies := rest }
                  lane :=
                    { s.lane with
                      classPointer := .relay
                      sent :=
                        some (withCheck ([1, r.code, BitVec.ofNat 8 r.result.code, BitVec.ofNat 8 r.body.length] ++
                          r.body)) } }) ∧
      (∀ (k : Fin 4) (p : PanelPacket) (rest : List PanelPacket), s.outputs[k].up = p :: rest →
        (∃ j : Fin 4, k = s.lane.relayPointer + j ∧
          ∀ i : Fin 4, i < j → s.outputs[s.lane.relayPointer + i].up = []) →
        s.lane.classPointer = .relay ∨ (s.lane.classPointer = .notice ∧ ¬ hasNotice ∧ ¬ hasReply) ∨
          (s.lane.classPointer = .reply ∧ ¬ hasReply) →
        exec .returnSlot s =
          .next { s with
                  outputs := s.outputs.set k { s.outputs[k] with up := rest }
                  lane :=
                    { classPointer := .notice
                      relayPointer := k + 1
                      sent :=
                        some (withCheck ([3, BitVec.ofNat 8 k.val, p.code, BitVec.ofNat 8 p.body.length] ++ p.body)) } }) ∧
      (∀ (i : Fin 14) (d : Word), 2 ≤ i.val → s.notices[i].held = some d →
        (∀ j : Fin 14, 2 ≤ j.val → s.notices[j].held ≠ none →
          s.notices[j].priority < s.notices[i].priority ∨ (s.notices[j].priority = s.notices[i].priority ∧ i ≤ j)) →
        s.lane.classPointer = .notice ∨ (s.lane.classPointer = .reply ∧ ¬ hasReply ∧ ¬ hasRelay) ∨
          (s.lane.classPointer = .relay ∧ ¬ hasRelay) →
        exec .returnSlot s =
          .next { s with
                  notices := s.notices.set i { priority := s.notices[i].priority, held := none }
                  lane :=
                    { s.lane with
                      classPointer := .reply
                      sent :=
                        some (withCheck ([2, BitVec.ofNat 8 (i.val + 1), 0, 9] ++
                          [BitVec.ofNat 8 s.notices[i].priority] ++ put32 d.toNat ++
                          put32 s.feed.frameNumber.toNat)) } }) ∧
      (¬ hasReply → ¬ hasRelay → ¬ hasNotice →
        exec .returnSlot s = .next { s with lane := { s.lane with sent := none } }))

/-! ## The art store (chapter 11) -/

/-- R179 to R183: ART OPEN, ART WRITE and ART CLOSE, and the worked value of the content's check. -/
def Obligations.ArtUploads : Prop :=
  crc32 [0x31, 0x32, 0x33, 0x34, 0x35, 0x36, 0x37, 0x38, 0x39] = 0xCBF43926 ∧ crc32 [] = 0 ∧
  (∀ (b : List Byte) (byte : Byte),
    crc32 (b ++ [byte]) ^^^ 0xFFFFFFFF#32 =
      (List.range 8).foldl (fun (reg : Word) _ => if reg.getLsbD 0 then (reg >>> 1) ^^^ 0xEDB88320#32 else reg >>> 1)
        ((crc32 b ^^^ 0xFFFFFFFF#32) ^^^ byte.zeroExtend 32)) ∧
  (∀ (height width : Nat) (advances : List Nat) (fill : Colour),
    (Shape.glyphSet height advances).size = height * advances.sum ∧ (Shape.card width height fill).size = width * height * 4) ∧
  (∀ shape : Shape, shape.size ≤ 4096 * shape.blocks ∧ 4096 * shape.blocks < shape.size + 4096) ∧
  (∀ art : Art, freeBlocks art = 4096 - (art.map (fun e => e.2.shape.blocks)).sum) ∧
  (∀ (b : List Byte) (i : Nat), rgb b i = { r := b.getD i 0, g := b.getD (i + 1) 0, b := b.getD (i + 2) 0 }) ∧
  ∀ (b : List Byte) (s : State) (place : Nat) (named : Prop), s.Takes →
    (named ↔ (u8 b 0 = 0 ∧ u8 b 1 < 4 ∧ place = u8 b 1) ∨
      (u8 b 0 = 1 ∧ 1 ≤ u8 b 1 ∧ u8 b 1 < 64 ∧ place = u8 b 1 + 3)) →
    (b.length < 2 → exec (.artOpen b) s = .next (s.replied 0xA0 .badLength [])) ∧
    (b.length < 7 ∨ 230 < b.length → exec (.artWrite b) s = .next (s.replied 0xA1 .badLength [])) ∧
    (b.length ≠ 6 → exec (.artClose b) s = .next (s.replied 0xA2 .badLength [])) ∧
    (1 < u8 b 0 ∨ (u8 b 0 = 0 ∧ 3 < u8 b 1) ∨ (u8 b 0 = 1 ∧ (u8 b 1 = 0 ∨ 63 < u8 b 1)) →
      (2 ≤ b.length → exec (.artOpen b) s = .next (s.replied 0xA0 .badField [])) ∧
      (7 ≤ b.length → b.length ≤ 230 → exec (.artWrite b) s = .next (s.replied 0xA1 .badField [])) ∧
      (b.length = 6 → exec (.artClose b) s = .next (s.replied 0xA2 .badField []))) ∧
    (named →
      (2 ≤ b.length → (u8 b 0 = 0 ∧ b.length ≠ 33) ∨ (u8 b 0 = 1 ∧ b.length ≠ 9) →
        exec (.artOpen b) s = .next (s.replied 0xA0 .badLength [])) ∧
      (∀ (shape : Shape) (good : Prop),
        (u8 b 0 = 0 ∧ b.length = 33 ∧ shape = .glyphSet (u16 b 2) ((b.drop 4).map (·.toNat)) ∧
            (good ↔ 8 ≤ u16 b 2 ∧ u16 b 2 ≤ 256 ∧ ∀ i, 4 ≤ i → i < 33 → u8 b i ≠ 0)) ∨
          (u8 b 0 = 1 ∧ b.length = 9 ∧ shape = .card (u16 b 2) (u16 b 4) (rgb b 6) ∧
            (good ↔ 1 ≤ u16 b 2 ∧ u16 b 2 ≤ 1024 ∧ 1 ≤ u16 b 4 ∧ u16 b 4 ≤ 1024)) →
        (¬ good → exec (.artOpen b) s = .next (s.replied 0xA0 .badField [])) ∧
        (good → ∀ n e, (n, e) ∈ s.art → e.ready = false → ArtOk s.art →
          n ≠ place →
          exec (.artOpen b) s =
            .next (s.replied 0xA0 .wrongState
              (if n < 4 then [0, BitVec.ofNat 8 n] else [1, BitVec.ofNat 8 (n - 3)]))) ∧
        (good → (∀ e ∈ s.art, e.1 ≠ place → e.2.ready = true) →
          (captureUses s.groups place = true → exec (.artOpen b) s = .next (s.replied 0xA0 .inUse [])) ∧
          (captureUses s.groups place = false → ∀ own : Nat,
            own = ((Table.find? s.art place).map (fun e => e.shape.blocks)).getD 0 →
            (freeBlocks s.art + own < shape.blocks → exec (.artOpen b) s = .next (s.replied 0xA0 .full [])) ∧
            (shape.blocks ≤ freeBlocks s.art + own → ArtOk s.art →
              ∃ art : Art,
                Table.find? art place = some { ready := false, shape := shape, content := [] } ∧
                (∀ n, n ≠ place → Table.find? art n = Table.find? s.art n) ∧
                freeBlocks art + shape.blocks = freeBlocks s.art + own ∧
                exec (.artOpen b) s =
                  .next (({ s with art := art }).replied 0xA0 .done
                    (put32 shape.size ++ put16 shape.blocks ++ put16 (freeBlocks art))))))) ∧
      ((∀ e, Table.find? s.art place = some e → e.ready = true) →
        (7 ≤ b.length → b.length ≤ 230 → exec (.artWrite b) s = .next (s.replied 0xA1 .wrongState [])) ∧
        (b.length = 6 → exec (.artClose b) s = .next (s.replied 0xA2 .wrongState []))) ∧
      ∀ e, Table.find? s.art place = some e → e.ready = false →
        (7 ≤ b.length → b.length ≤ 230 →
          (u32 b 2 ≠ e.content.length →
            exec (.artWrite b) s = .next (s.replied 0xA1 .wrongState (put32 e.content.length))) ∧
          (u32 b 2 = e.content.length →
            (e.shape.size < u32 b 2 + (b.length - 6) →
              exec (.artWrite b) s = .next (s.replied 0xA1 .badField [])) ∧
            (u32 b 2 + (b.length - 6) ≤ e.shape.size →
              ∃ art : Art,
                Table.find? art place = some { e with content := e.content ++ b.drop 6 } ∧
                (∀ n, n ≠ place → Table.find? art n = Table.find? s.art n) ∧
                exec (.artWrite b) s =
                  .next (({ s with art := art }).replied 0xA1 .done (put32 (e.content.length + (b.length - 6))))))) ∧
        (b.length = 6 →
          (e.content.length = e.shape.size → (crc32 e.content).toNat = u32 b 2 →
            ∃ art : Art,
              Table.find? art place = some { e with ready := true } ∧
              (∀ n, n ≠ place → Table.find? art n = Table.find? s.art n) ∧
              exec (.artClose b) s = .next (({ s with art := art }).replied 0xA2 .done (put32 e.shape.size))) ∧
          (e.content.length ≠ e.shape.size ∨ (crc32 e.content).toNat ≠ u32 b 2 →
            ∃ art : Art,
              Table.find? art place = none ∧ (∀ n, n ≠ place → Table.find? art n = Table.find? s.art n) ∧
              exec (.artClose b) s =
                .next (({ s with art := art }).replied 0xA2 .badCheck (put32 e.content.length)))))

/-- R57, R184, R185: ART DROP and ART GET. -/
def Obligations.ArtDropAndGet : Prop :=
  (∀ (groups : Vector Group 4) (place : Nat), captureUses groups place = true ↔
    ∃ (g : Fin 4) (v : FrameView) (w : Nat × SlotView), groups[g].capture = some v ∧ w ∈ v ∧
      ((∃ p, w.2.price = some p ∧ p.glyphSet.val = place ∧ p.outcome ≠ .nothing ∧ p.outcome ≠ .noArt) ∨
        (∃ k : Fin 63, (w.2.action = .coverCard k ∨ w.2.badge = some k) ∧ k.val + 4 = place))) ∧
  ∀ (b : List Byte) (s : State) (place : Nat) (named : Prop), s.Takes →
    (named ↔ (u8 b 0 = 0 ∧ u8 b 1 < 4 ∧ place = u8 b 1) ∨
      (u8 b 0 = 1 ∧ 1 ≤ u8 b 1 ∧ u8 b 1 < 64 ∧ place = u8 b 1 + 3)) →
    (b.length ≠ 2 →
      exec (.artDrop b) s = .next (s.replied 0xA3 .badLength []) ∧
      exec (.artGet b) s = .next (s.replied 0xA4 .badLength [])) ∧
    (b.length = 2 → 1 < u8 b 0 ∨ (u8 b 0 = 0 ∧ 3 < u8 b 1) ∨ (u8 b 0 = 1 ∧ (u8 b 1 = 0 ∨ 63 < u8 b 1)) →
      exec (.artDrop b) s = .next (s.replied 0xA3 .badField []) ∧
      exec (.artGet b) s = .next (s.replied 0xA4 .badField [])) ∧
    (b.length = 2 → named →
      (Table.find? s.art place = none → exec (.artDrop b) s = .next (s.replied 0xA3 .noEntry [])) ∧
      (∀ e, Table.find? s.art place = some e →
        (captureUses s.groups place = true → exec (.artDrop b) s = .next (s.replied 0xA3 .inUse [])) ∧
        (captureUses s.groups place = false → ArtOk s.art →
          ∃ art : Art,
            Table.find? art place = none ∧ (∀ n, n ≠ place → Table.find? art n = Table.find? s.art n) ∧
            freeBlocks art = freeBlocks s.art + e.shape.blocks ∧
            exec (.artDrop b) s = .next (({ s with art := art }).replied 0xA3 .done (put16 (freeBlocks art))))) ∧
      ∃ head shape : List Byte,
        (Table.find? s.art place = none →
          head = [0, if captureUses s.groups place then 1 else 0] ++ put32 0 ++ put32 0 ++ put16 0 ∧
          shape = List.replicate (if u8 b 0 = 0 then 31 else 7) 0) ∧
        (∀ e, Table.find? s.art place = some e →
          head =
            [if e.ready then 2 else 1, if captureUses s.groups place then 1 else 0] ++ put32 e.shape.size ++
              put32 e.content.length ++ put16 e.shape.blocks ∧
          (∀ h advances, e.shape = .glyphSet h advances → shape = put16 h ++ advances.map (BitVec.ofNat 8)) ∧
          (∀ w h fill, e.shape = .card w h fill → shape = put16 w ++ put16 h ++ [fill.r, fill.g, fill.b])) ∧
        exec (.artGet b) s =
          .next (s.replied 0xA4 .done
            ([BitVec.ofNat 8 (u8 b 0), BitVec.ofNat 8 (u8 b 1)] ++ head ++ shape)))

/-! ## Invariants that every step keeps -/

/-- R164: the state after a full reset satisfies every invariant. -/
def Obligations.ResetSatisfiesInvariants : Prop :=
  ∀ s : State, s = State.reset →
    ItemsOk s.items ∧ SlotsOk s.slots ∧ ScheduleOk s.schedule ∧ s.clock.Ok ∧ ArtOk s.art ∧ CapturesReady s ∧
      (∀ g : Fin 4, s.groups[g].Ok) ∧ (∀ i : Fin 8, s.lines[i].Ok) ∧ LineHoldsOk s.lines s.groups ∧
      (∀ k : Fin 4, s.outputs[k].LinkOk ∧ s.outputs[k].WindowOk ∧ s.outputs[k].QueuesOk) ∧ s.margin.Ok ∧
      NoticesOk s.notices ∧ s.feed.Ok s.resetPin ∧ HeldAtReset s

/-- R1, R3, R36, R60, R61, R108, R116, R179, R184: every step keeps the tables legal: items and prices, slots and their photo
watch, the clock, the schedule without conflicts, the art memory within its blocks, and READY art under every capture. -/
def Obligations.StepKeepsTables : Prop :=
  (∀ e f : Entry, e.conflicts f = true ↔
    e.time = f.time ∧ (∃ d, d < 7 ∧ e.days.getLsbD d = true ∧ f.days.getLsbD d = true) ∧
      ∃ g, g < 4 ∧ e.groups.getLsbD g = true ∧ f.groups.getLsbD g = true) ∧
  (∀ (h w : Nat) (advances : List Nat) (fill : Colour),
    ((Shape.glyphSet h advances).good = true ↔ 8 ≤ h ∧ h ≤ 256 ∧ ∀ a ∈ advances, a ≠ 0) ∧
    ((Shape.card w h fill).good = true ↔ 1 ≤ w ∧ w ≤ 1024 ∧ 1 ≤ h ∧ h ≤ 1024)) ∧
  (∀ art : Art, usedBlocks art = (art.map (fun e => e.2.shape.blocks)).sum) ∧
  (∀ (art : Art) (place : Nat) (e : ArtEntry),
    readyEntry art place = some e ↔ Table.find? art place = some e ∧ e.ready = true) ∧
  ∀ s t : State, step s = .next t →
    ItemsOk s.items → SlotsOk s.slots → ScheduleOk s.schedule → s.clock.Ok → ArtOk s.art → CapturesReady s →
    ItemsOk t.items ∧ SlotsOk t.slots ∧ ScheduleOk t.schedule ∧ t.clock.Ok ∧ ArtOk t.art ∧ CapturesReady t

/-- R63, R65, R66, R80, R85, R97, R98: every step keeps every group record and every stock line legal, and the line-hold sets
equal to the GROUP_HOLD lines in force. -/
def Obligations.StepKeepsGroupsAndLines : Prop :=
  (∀ (lines : Vector Line 8) (g : Fin 4) (i : Fin 8), (holdingLines lines g).getLsbD i.val = true ↔
    lines[i].active = true ∧ lines[i].masked = false ∧ lines[i].function = .groupHold ∧
      lines[i].groups.getLsbD g.val = true) ∧
  ∀ s t : State, step s = .next t →
    (∀ g : Fin 4, s.groups[g].Ok) → (∀ i : Fin 8, s.lines[i].Ok) → LineHoldsOk s.lines s.groups →
    (∀ g : Fin 4, t.groups[g].Ok) ∧ (∀ i : Fin 8, t.lines[i].Ok) ∧ LineHoldsOk t.lines t.groups

/-- R121, R122, R130 to R134, R153, R158, R171, R173, R175, R176: every step keeps every output's link record and window
legal, the queues within their sizes, and the notice priorities legal. -/
def Obligations.StepKeepsLinksAndQueues : Prop :=
  (∀ (o : Output) (w h : Nat), o.matchesSize w h = true ↔ ∃ a, o.matched = some a ∧ a.width = w ∧ a.height = h) ∧
  ∀ s t : State, step s = .next t →
    (∀ k : Fin 4, s.outputs[k].LinkOk ∧ s.outputs[k].WindowOk ∧ s.outputs[k].QueuesOk) → s.margin.Ok →
    NoticesOk s.notices →
    (∀ k : Fin 4, t.outputs[k].LinkOk ∧ t.outputs[k].WindowOk ∧ t.outputs[k].QueuesOk) ∧ t.margin.Ok ∧
      NoticesOk t.notices

/-- R140, R142, R143, R147, R148, R164: every step keeps the feed record legal, and the part at its reset values while the
reset pin is asserted. -/
def Obligations.StepKeepsFeedAndReset : Prop :=
  (∀ g : Geometry, g.supported = true ↔ 320 ≤ g.width ∧ g.width ≤ 7680 ∧ 240 ≤ g.height ∧ g.height ≤ 2160) ∧
  (∀ i : Nat, intervalSupported i = true ↔ 16583333 ≤ i ∧ i ≤ 41875000) ∧
  ∀ s t : State, step s = .next t → s.feed.Ok s.resetPin → HeldAtReset s →
    t.feed.Ok t.resetPin ∧ HeldAtReset t
end

