-- ==== Sys2Proof/Laws/Config.lean ====
section
/-! SUPPORT. The numbers behind the names of Config, for simp and omega. -/

namespace Sys2Proof.Config

@[simp] theorem itemCapacity_eq : itemCapacity = 1024 := rfl
@[simp] theorem maxCode_eq : maxCode = 65535 := rfl
@[simp] theorem maxPrice_eq : maxPrice = 9999999 := rfl
@[simp] theorem slotCount_eq : slotCount = 256 := rfl
@[simp] theorem listLimit_eq : listLimit = 100 := rfl
@[simp] theorem maxBody_eq : maxBody = 240 := rfl
@[simp] theorem packetsPerMargin_eq : packetsPerMargin = 8 := rfl
@[simp] theorem replyCapacity_eq : replyCapacity = 32 := rfl
@[simp] theorem downCapacity_eq : downCapacity = 8 := rfl
@[simp] theorem placedPerFrame_eq : placedPerFrame = 4 := rfl
@[simp] theorem upCapacity_eq : upCapacity = 4 := rfl
@[simp] theorem plainSilence_eq : plainSilence = 60 := rfl
@[simp] theorem ackWaitLimit_eq : ackWaitLimit = 30 := rfl
@[simp] theorem dropSilence_eq : dropSilence = 10 := rfl
@[simp] theorem failureLimit_eq : failureLimit = 8 := rfl
@[simp] theorem artBlocks_eq : artBlocks = 4096 := rfl
@[simp] theorem blockBytes_eq : blockBytes = 4096 := rfl
@[simp] theorem glyphCount_eq : glyphCount = 29 := rfl
@[simp] theorem daySeconds_eq : daySeconds = 86400 := rfl
@[simp] theorem weekSeconds_eq : weekSeconds = 604800 := rfl
@[simp] theorem resetPeriod_eq : resetPeriod = 16666667 := rfl
@[simp] theorem minInterval_eq : minInterval = 16583333 := rfl
@[simp] theorem maxInterval_eq : maxInterval = 41875000 := rfl
@[simp] theorem frameCountTop_eq : frameCountTop = 65535 := rfl

end Sys2Proof.Config
end

