-- ==== Sys2Proof/Laws/State.lean ====
section
/-! SUPPORT. What each shared operation over State leaves alone, field by field, and what it writes: for simp, so that no later
proof unfolds an operation to read a field. -/

namespace Sys2Proof.Machine

/-! ## Notices -/

/-- A raise writes the notices alone. -/
@[simp] theorem State.raise_frame (src : Source) (merge : Option Word → Word) (s : State) :
    (State.raise src merge s).pending = s.pending ∧
      (State.raise src merge s).resetPin = s.resetPin ∧
      (State.raise src merge s).items = s.items ∧
      (State.raise src merge s).formats = s.formats ∧
      (State.raise src merge s).formatMode = s.formatMode ∧
      (State.raise src merge s).slots = s.slots ∧
      (State.raise src merge s).lines = s.lines ∧
      (State.raise src merge s).groups = s.groups ∧
      (State.raise src merge s).clock = s.clock ∧
      (State.raise src merge s).schedule = s.schedule ∧
      (State.raise src merge s).outputs = s.outputs ∧
      (State.raise src merge s).feed = s.feed ∧
      (State.raise src merge s).margin = s.margin ∧
      (State.raise src merge s).lane = s.lane ∧
      (State.raise src merge s).art = s.art ∧
      (State.raise src merge s).pictures = s.pictures ∧
      (State.raise src merge s).frame = s.frame := by
  unfold State.raise
  split <;> exact ⟨rfl, rfl, rfl, rfl, rfl, rfl, rfl, rfl, rfl, rfl, rfl, rfl, rfl, rfl, rfl, rfl, rfl⟩

/-- A raise, by the source's priority. -/
theorem State.raise_of_zero {src : Source} {merge : Option Word → Word} {s : State}
    (h : (s.notices[src.index]).priority = 0) : State.raise src merge s = s := if_pos h

theorem State.raise_of_ne_zero {src : Source} {merge : Option Word → Word} {s : State}
    (h : (s.notices[src.index]).priority ≠ 0) :
    State.raise src merge s =
      { s with
        notices := s.notices.set src.index
          { priority := (s.notices[src.index]).priority, held := some (merge (s.notices[src.index]).held) } } := if_neg h

/-- A raise as an update of the notices. -/
theorem State.raise_eq (src : Source) (merge : Option Word → Word) (s : State) :
    State.raise src merge s = { s with notices := (State.raise src merge s).notices } := by
  unfold State.raise
  split <;> rfl

/-- What a raise makes of the notices depends on the notices alone. -/
theorem State.raise_notices_congr (src : Source) (merge : Option Word → Word) {s t : State} (h : s.notices = t.notices) :
    (State.raise src merge s).notices = (State.raise src merge t).notices := by
  unfold State.raise State.notice
  rw [h]
  split <;> simp [h]

/-- Raising a source with a set writes the notices alone. -/
@[simp] theorem State.raiseSet_frame (src : Source) (set : Word) (s : State) :
    (State.raiseSet src set s).pending = s.pending ∧
      (State.raiseSet src set s).resetPin = s.resetPin ∧
      (State.raiseSet src set s).items = s.items ∧
      (State.raiseSet src set s).formats = s.formats ∧
      (State.raiseSet src set s).formatMode = s.formatMode ∧
      (State.raiseSet src set s).slots = s.slots ∧
      (State.raiseSet src set s).lines = s.lines ∧
      (State.raiseSet src set s).groups = s.groups ∧
      (State.raiseSet src set s).clock = s.clock ∧
      (State.raiseSet src set s).schedule = s.schedule ∧
      (State.raiseSet src set s).outputs = s.outputs ∧
      (State.raiseSet src set s).feed = s.feed ∧
      (State.raiseSet src set s).margin = s.margin ∧
      (State.raiseSet src set s).lane = s.lane ∧
      (State.raiseSet src set s).art = s.art ∧
      (State.raiseSet src set s).pictures = s.pictures ∧
      (State.raiseSet src set s).frame = s.frame := by
  unfold State.raiseSet
  split
  · exact ⟨rfl, rfl, rfl, rfl, rfl, rfl, rfl, rfl, rfl, rfl, rfl, rfl, rfl, rfl, rfl, rfl, rfl⟩
  · exact State.raise_frame src _ s

theorem State.raiseSet_eq (src : Source) (set : Word) (s : State) :
    State.raiseSet src set s = { s with notices := (State.raiseSet src set s).notices } := by
  unfold State.raiseSet
  split
  · rfl
  · exact State.raise_eq src _ s

theorem State.raiseSet_notices_congr (src : Source) (set : Word) {s t : State} (h : s.notices = t.notices) :
    (State.raiseSet src set s).notices = (State.raiseSet src set t).notices := by
  unfold State.raiseSet
  split
  · exact h
  · exact State.raise_notices_congr src _ h

@[simp] theorem State.raiseSet_zero (src : Source) (s : State) : State.raiseSet src 0 s = s := if_pos rfl

/-- Counting merged sold-out changes writes the notices alone. -/
@[simp] theorem State.countAvail_frame (n : Nat) (s : State) :
    (State.countAvail n s).pending = s.pending ∧
      (State.countAvail n s).resetPin = s.resetPin ∧
      (State.countAvail n s).items = s.items ∧
      (State.countAvail n s).formats = s.formats ∧
      (State.countAvail n s).formatMode = s.formatMode ∧
      (State.countAvail n s).slots = s.slots ∧
      (State.countAvail n s).lines = s.lines ∧
      (State.countAvail n s).groups = s.groups ∧
      (State.countAvail n s).clock = s.clock ∧
      (State.countAvail n s).schedule = s.schedule ∧
      (State.countAvail n s).outputs = s.outputs ∧
      (State.countAvail n s).feed = s.feed ∧
      (State.countAvail n s).margin = s.margin ∧
      (State.countAvail n s).lane = s.lane ∧
      (State.countAvail n s).art = s.art ∧
      (State.countAvail n s).pictures = s.pictures ∧
      (State.countAvail n s).frame = s.frame := by
  unfold State.countAvail
  split
  · exact ⟨rfl, rfl, rfl, rfl, rfl, rfl, rfl, rfl, rfl, rfl, rfl, rfl, rfl, rfl, rfl, rfl, rfl⟩
  · exact State.raise_frame _ _ s

theorem State.countAvail_eq (n : Nat) (s : State) :
    State.countAvail n s = { s with notices := (State.countAvail n s).notices } := by
  unfold State.countAvail
  split
  · rfl
  · exact State.raise_eq _ _ s

theorem State.countAvail_notices_congr (n : Nat) {s t : State} (h : s.notices = t.notices) :
    (State.countAvail n s).notices = (State.countAvail n t).notices := by
  unfold State.countAvail
  split
  · exact h
  · exact State.raise_notices_congr _ _ h

/-- Raising PHOTO_WATCH writes the notices alone. -/
@[simp] theorem State.raisePhotoWatch_frame (s : State) :
    (s.raisePhotoWatch).pending = s.pending ∧
      (s.raisePhotoWatch).resetPin = s.resetPin ∧
      (s.raisePhotoWatch).items = s.items ∧
      (s.raisePhotoWatch).formats = s.formats ∧
      (s.raisePhotoWatch).formatMode = s.formatMode ∧
      (s.raisePhotoWatch).slots = s.slots ∧
      (s.raisePhotoWatch).lines = s.lines ∧
      (s.raisePhotoWatch).groups = s.groups ∧
      (s.raisePhotoWatch).clock = s.clock ∧
      (s.raisePhotoWatch).schedule = s.schedule ∧
      (s.raisePhotoWatch).outputs = s.outputs ∧
      (s.raisePhotoWatch).feed = s.feed ∧
      (s.raisePhotoWatch).margin = s.margin ∧
      (s.raisePhotoWatch).lane = s.lane ∧
      (s.raisePhotoWatch).art = s.art ∧
      (s.raisePhotoWatch).pictures = s.pictures ∧
      (s.raisePhotoWatch).frame = s.frame := by
  exact State.raise_frame _ _ s

/-! ## Margin channel, slots, outputs and the return lane -/

/-- Counting a packet writes the margin channel alone. -/
@[simp] theorem State.countTaken_frame (s : State) :
    (s.countTaken).pending = s.pending ∧
      (s.countTaken).resetPin = s.resetPin ∧
      (s.countTaken).items = s.items ∧
      (s.countTaken).formats = s.formats ∧
      (s.countTaken).formatMode = s.formatMode ∧
      (s.countTaken).slots = s.slots ∧
      (s.countTaken).lines = s.lines ∧
      (s.countTaken).groups = s.groups ∧
      (s.countTaken).clock = s.clock ∧
      (s.countTaken).schedule = s.schedule ∧
      (s.countTaken).outputs = s.outputs ∧
      (s.countTaken).feed = s.feed ∧
      (s.countTaken).lane = s.lane ∧
      (s.countTaken).notices = s.notices ∧
      (s.countTaken).art = s.art ∧
      (s.countTaken).pictures = s.pictures ∧
      (s.countTaken).frame = s.frame := by
  exact ⟨rfl, rfl, rfl, rfl, rfl, rfl, rfl, rfl, rfl, rfl, rfl, rfl, rfl, rfl, rfl, rfl, rfl⟩
/-- Queueing a reply writes the margin channel alone. -/
@[simp] theorem State.queueReply_frame (r : Reply) (s : State) :
    (State.queueReply r s).pending = s.pending ∧
      (State.queueReply r s).resetPin = s.resetPin ∧
      (State.queueReply r s).items = s.items ∧
      (State.queueReply r s).formats = s.formats ∧
      (State.queueReply r s).formatMode = s.formatMode ∧
      (State.queueReply r s).slots = s.slots ∧
      (State.queueReply r s).lines = s.lines ∧
      (State.queueReply r s).groups = s.groups ∧
      (State.queueReply r s).clock = s.clock ∧
      (State.queueReply r s).schedule = s.schedule ∧
      (State.queueReply r s).outputs = s.outputs ∧
      (State.queueReply r s).feed = s.feed ∧
      (State.queueReply r s).lane = s.lane ∧
      (State.queueReply r s).notices = s.notices ∧
      (State.queueReply r s).art = s.art ∧
      (State.queueReply r s).pictures = s.pictures ∧
      (State.queueReply r s).frame = s.frame := by
  exact ⟨rfl, rfl, rfl, rfl, rfl, rfl, rfl, rfl, rfl, rfl, rfl, rfl, rfl, rfl, rfl, rfl, rfl⟩
/-- A command counted and answered writes the margin channel alone. -/
@[simp] theorem State.replied_frame (code : Byte) (result : ResultCode) (body : List Byte) (s : State) :
    (State.replied code result body s).pending = s.pending ∧
      (State.replied code result body s).resetPin = s.resetPin ∧
      (State.replied code result body s).items = s.items ∧
      (State.replied code result body s).formats = s.formats ∧
      (State.replied code result body s).formatMode = s.formatMode ∧
      (State.replied code result body s).slots = s.slots ∧
      (State.replied code result body s).lines = s.lines ∧
      (State.replied code result body s).groups = s.groups ∧
      (State.replied code result body s).clock = s.clock ∧
      (State.replied code result body s).schedule = s.schedule ∧
      (State.replied code result body s).outputs = s.outputs ∧
      (State.replied code result body s).feed = s.feed ∧
      (State.replied code result body s).lane = s.lane ∧
      (State.replied code result body s).notices = s.notices ∧
      (State.replied code result body s).art = s.art ∧
      (State.replied code result body s).pictures = s.pictures ∧
      (State.replied code result body s).frame = s.frame := by
  exact ⟨rfl, rfl, rfl, rfl, rfl, rfl, rfl, rfl, rfl, rfl, rfl, rfl, rfl, rfl, rfl, rfl, rfl⟩
/-- Stopping the reading of a margin writes the margin channel alone. -/
@[simp] theorem State.stopMargin_frame (s : State) :
    (s.stopMargin).pending = s.pending ∧
      (s.stopMargin).resetPin = s.resetPin ∧
      (s.stopMargin).items = s.items ∧
      (s.stopMargin).formats = s.formats ∧
      (s.stopMargin).formatMode = s.formatMode ∧
      (s.stopMargin).slots = s.slots ∧
      (s.stopMargin).lines = s.lines ∧
      (s.stopMargin).groups = s.groups ∧
      (s.stopMargin).clock = s.clock ∧
      (s.stopMargin).schedule = s.schedule ∧
      (s.stopMargin).outputs = s.outputs ∧
      (s.stopMargin).feed = s.feed ∧
      (s.stopMargin).lane = s.lane ∧
      (s.stopMargin).notices = s.notices ∧
      (s.stopMargin).art = s.art ∧
      (s.stopMargin).pictures = s.pictures ∧
      (s.stopMargin).frame = s.frame := by
  exact ⟨rfl, rfl, rfl, rfl, rfl, rfl, rfl, rfl, rfl, rfl, rfl, rfl, rfl, rfl, rfl, rfl, rfl⟩
/-- A bad packet writes the margin channel and the notices alone. -/
@[simp] theorem State.badPacket_frame (s : State) :
    (s.badPacket).pending = s.pending ∧
      (s.badPacket).resetPin = s.resetPin ∧
      (s.badPacket).items = s.items ∧
      (s.badPacket).formats = s.formats ∧
      (s.badPacket).formatMode = s.formatMode ∧
      (s.badPacket).slots = s.slots ∧
      (s.badPacket).lines = s.lines ∧
      (s.badPacket).groups = s.groups ∧
      (s.badPacket).clock = s.clock ∧
      (s.badPacket).schedule = s.schedule ∧
      (s.badPacket).outputs = s.outputs ∧
      (s.badPacket).feed = s.feed ∧
      (s.badPacket).lane = s.lane ∧
      (s.badPacket).art = s.art ∧
      (s.badPacket).pictures = s.pictures ∧
      (s.badPacket).frame = s.frame := by
  unfold State.badPacket
  simp
/-- A command turned away writes the margin channel and the notices alone. -/
@[simp] theorem State.turnAway_frame (s : State) :
    (s.turnAway).pending = s.pending ∧
      (s.turnAway).resetPin = s.resetPin ∧
      (s.turnAway).items = s.items ∧
      (s.turnAway).formats = s.formats ∧
      (s.turnAway).formatMode = s.formatMode ∧
      (s.turnAway).slots = s.slots ∧
      (s.turnAway).lines = s.lines ∧
      (s.turnAway).groups = s.groups ∧
      (s.turnAway).clock = s.clock ∧
      (s.turnAway).schedule = s.schedule ∧
      (s.turnAway).outputs = s.outputs ∧
      (s.turnAway).feed = s.feed ∧
      (s.turnAway).lane = s.lane ∧
      (s.turnAway).art = s.art ∧
      (s.turnAway).pictures = s.pictures ∧
      (s.turnAway).frame = s.frame := by
  unfold State.turnAway
  simp
/-- Writing a slot writes the slots alone. -/
@[simp] theorem State.putSlot_frame (n : Nat) (v : Slot) (s : State) :
    (s.putSlot n v).pending = s.pending ∧
      (s.putSlot n v).resetPin = s.resetPin ∧
      (s.putSlot n v).items = s.items ∧
      (s.putSlot n v).formats = s.formats ∧
      (s.putSlot n v).formatMode = s.formatMode ∧
      (s.putSlot n v).lines = s.lines ∧
      (s.putSlot n v).groups = s.groups ∧
      (s.putSlot n v).clock = s.clock ∧
      (s.putSlot n v).schedule = s.schedule ∧
      (s.putSlot n v).outputs = s.outputs ∧
      (s.putSlot n v).feed = s.feed ∧
      (s.putSlot n v).margin = s.margin ∧
      (s.putSlot n v).lane = s.lane ∧
      (s.putSlot n v).notices = s.notices ∧
      (s.putSlot n v).art = s.art ∧
      (s.putSlot n v).pictures = s.pictures ∧
      (s.putSlot n v).frame = s.frame := by
  exact ⟨rfl, rfl, rfl, rfl, rfl, rfl, rfl, rfl, rfl, rfl, rfl, rfl, rfl, rfl, rfl, rfl, rfl⟩
/-- Writing an output writes the outputs and the notices alone. -/
@[simp] theorem State.putOutput_frame (k : Fin 4) (o : Output) (s : State) :
    (State.putOutput k o s).pending = s.pending ∧
      (State.putOutput k o s).resetPin = s.resetPin ∧
      (State.putOutput k o s).items = s.items ∧
      (State.putOutput k o s).formats = s.formats ∧
      (State.putOutput k o s).formatMode = s.formatMode ∧
      (State.putOutput k o s).slots = s.slots ∧
      (State.putOutput k o s).lines = s.lines ∧
      (State.putOutput k o s).groups = s.groups ∧
      (State.putOutput k o s).clock = s.clock ∧
      (State.putOutput k o s).schedule = s.schedule ∧
      (State.putOutput k o s).feed = s.feed ∧
      (State.putOutput k o s).margin = s.margin ∧
      (State.putOutput k o s).lane = s.lane ∧
      (State.putOutput k o s).art = s.art ∧
      (State.putOutput k o s).pictures = s.pictures ∧
      (State.putOutput k o s).frame = s.frame := by
  unfold State.putOutput
  split <;> simp
/-- Changing the outputs writes the outputs and the notices alone. -/
@[simp] theorem State.changeOutputs_frame (f : Fin 4 → Output → Output) (s : State) :
    (State.changeOutputs f s).pending = s.pending ∧
      (State.changeOutputs f s).resetPin = s.resetPin ∧
      (State.changeOutputs f s).items = s.items ∧
      (State.changeOutputs f s).formats = s.formats ∧
      (State.changeOutputs f s).formatMode = s.formatMode ∧
      (State.changeOutputs f s).slots = s.slots ∧
      (State.changeOutputs f s).lines = s.lines ∧
      (State.changeOutputs f s).groups = s.groups ∧
      (State.changeOutputs f s).clock = s.clock ∧
      (State.changeOutputs f s).schedule = s.schedule ∧
      (State.changeOutputs f s).feed = s.feed ∧
      (State.changeOutputs f s).margin = s.margin ∧
      (State.changeOutputs f s).lane = s.lane ∧
      (State.changeOutputs f s).art = s.art ∧
      (State.changeOutputs f s).pictures = s.pictures ∧
      (State.changeOutputs f s).frame = s.frame := by
  unfold State.changeOutputs
  simp
/-- Landing line changes writes the lines, the groups and the notices alone. -/
@[simp] theorem State.landLines_frame (touched : LineSet) (lines : Vector Line 8) (s : State) :
    (State.landLines touched lines s).pending = s.pending ∧
      (State.landLines touched lines s).resetPin = s.resetPin ∧
      (State.landLines touched lines s).items = s.items ∧
      (State.landLines touched lines s).formats = s.formats ∧
      (State.landLines touched lines s).formatMode = s.formatMode ∧
      (State.landLines touched lines s).slots = s.slots ∧
      (State.landLines touched lines s).clock = s.clock ∧
      (State.landLines touched lines s).schedule = s.schedule ∧
      (State.landLines touched lines s).outputs = s.outputs ∧
      (State.landLines touched lines s).feed = s.feed ∧
      (State.landLines touched lines s).margin = s.margin ∧
      (State.landLines touched lines s).lane = s.lane ∧
      (State.landLines touched lines s).art = s.art ∧
      (State.landLines touched lines s).pictures = s.pictures ∧
      (State.landLines touched lines s).frame = s.frame := by
  unfold State.landLines
  simp
/-- Sending a return packet writes the lane alone. -/
@[simp] theorem State.sendReturn_frame (p : Option (List Byte)) (s : State) :
    (State.sendReturn p s).pending = s.pending ∧
      (State.sendReturn p s).resetPin = s.resetPin ∧
      (State.sendReturn p s).items = s.items ∧
      (State.sendReturn p s).formats = s.formats ∧
      (State.sendReturn p s).formatMode = s.formatMode ∧
      (State.sendReturn p s).slots = s.slots ∧
      (State.sendReturn p s).lines = s.lines ∧
      (State.sendReturn p s).groups = s.groups ∧
      (State.sendReturn p s).clock = s.clock ∧
      (State.sendReturn p s).schedule = s.schedule ∧
      (State.sendReturn p s).outputs = s.outputs ∧
      (State.sendReturn p s).feed = s.feed ∧
      (State.sendReturn p s).margin = s.margin ∧
      (State.sendReturn p s).notices = s.notices ∧
      (State.sendReturn p s).art = s.art ∧
      (State.sendReturn p s).pictures = s.pictures ∧
      (State.sendReturn p s).frame = s.frame := by
  exact ⟨rfl, rfl, rfl, rfl, rfl, rfl, rfl, rfl, rfl, rfl, rfl, rfl, rfl, rfl, rfl, rfl, rfl⟩
/-- Moving the class pointer writes the lane alone. -/
@[simp] theorem State.pointClass_frame (c : ReturnClass) (s : State) :
    (State.pointClass c s).pending = s.pending ∧
      (State.pointClass c s).resetPin = s.resetPin ∧
      (State.pointClass c s).items = s.items ∧
      (State.pointClass c s).formats = s.formats ∧
      (State.pointClass c s).formatMode = s.formatMode ∧
      (State.pointClass c s).slots = s.slots ∧
      (State.pointClass c s).lines = s.lines ∧
      (State.pointClass c s).groups = s.groups ∧
      (State.pointClass c s).clock = s.clock ∧
      (State.pointClass c s).schedule = s.schedule ∧
      (State.pointClass c s).outputs = s.outputs ∧
      (State.pointClass c s).feed = s.feed ∧
      (State.pointClass c s).margin = s.margin ∧
      (State.pointClass c s).notices = s.notices ∧
      (State.pointClass c s).art = s.art ∧
      (State.pointClass c s).pictures = s.pictures ∧
      (State.pointClass c s).frame = s.frame := by
  exact ⟨rfl, rfl, rfl, rfl, rfl, rfl, rfl, rfl, rfl, rfl, rfl, rfl, rfl, rfl, rfl, rfl, rfl⟩

/-! ## What they write -/

@[simp] theorem State.countTaken_margin (s : State) :
    s.countTaken.margin = { s.margin with taken := s.margin.taken + 1 } := rfl

@[simp] theorem State.queueReply_margin (r : Reply) (s : State) :
    (s.queueReply r).margin = { s.margin with replies := s.margin.replies ++ [r] } := rfl

@[simp] theorem State.replied_margin (code : Byte) (result : ResultCode) (body : List Byte) (s : State) :
    (s.replied code result body).margin =
      { s.margin with
        taken := s.margin.taken + 1
        replies := s.margin.replies ++ [{ code := code, result := result, body := body }] } := rfl

@[simp] theorem State.stopMargin_margin (s : State) : s.stopMargin.margin = { s.margin with stopped := true } := rfl

@[simp] theorem State.badPacket_margin (s : State) : s.badPacket.margin = { s.margin with bad := s.margin.bad + 1 } := by
  simp [State.badPacket]

@[simp] theorem State.turnAway_margin (s : State) :
    s.turnAway.margin = { s.margin with turnedAway := s.margin.turnedAway + 1 } := by
  simp [State.turnAway]

@[simp] theorem State.putOutput_outputs (k : Fin 4) (o : Output) (s : State) :
    (State.putOutput k o s).outputs = s.outputs.set k o := by
  unfold State.putOutput
  split <;> simp

@[simp] theorem State.changeOutputs_outputs (f : Fin 4 → Output → Output) (s : State) :
    (State.changeOutputs f s).outputs = tab (fun k => f k s.outputs[k]) := by
  simp [State.changeOutputs]

@[simp] theorem State.landLines_lines (touched : LineSet) (lines : Vector Line 8) (s : State) :
    (State.landLines touched lines s).lines = lines := by
  simp [State.landLines]

@[simp] theorem State.landLines_groups (touched : LineSet) (lines : Vector Line 8) (s : State) :
    (State.landLines touched lines s).groups = tab (fun i => s.groups[i].reline touched (holdingLines lines i)) := by
  simp [State.landLines]

@[simp] theorem State.sendReturn_lane (p : Option (List Byte)) (s : State) :
    (State.sendReturn p s).lane = { s.lane with sent := p } := rfl

@[simp] theorem State.pointClass_lane (c : ReturnClass) (s : State) :
    (State.pointClass c s).lane = { s.lane with classPointer := c } := rfl

/-! ## Priorities and pending flags after a raise (R175) -/

/-- A raise keeps every priority. -/
@[simp] theorem State.raise_priority (src : Source) (merge : Option Word → Word) (s : State) (i : Nat) (h : i < 14) :
    ((State.raise src merge s).notices[i]).priority = (s.notices[i]).priority := by
  unfold State.raise
  split
  · rfl
  · simp only [Vector.getElem_set, State.notice]
    split
    · simp_all
    · rfl

/-- A raise leaves a source with priority 0 as it is. -/
theorem State.raise_held_of_zero (src : Source) (merge : Option Word → Word) (s : State) (i : Nat) (h : i < 14)
    (g : (s.notices[i]).priority = 0) : ((State.raise src merge s).notices[i]).held = (s.notices[i]).held := by
  unfold State.raise
  split
  · rfl
  · rename_i hp
    simp only [Vector.getElem_set, State.notice] at hp ⊢
    split
    · exfalso
      apply hp
      simp_all
    · rfl

end Sys2Proof.Machine
end

