-- ==== Sys2Proof/Laws/Commands.lean ====
section
/-! SUPPORT. How a command reaches its effect (R155, R158, R159): the four cases of sendCommand, what exec answers for each row of
the command set, and the ranges of the fields of a body. -/

namespace Sys2Proof.Machine

/-! ## The gate before every command -/

/-- R155: a command that arrives while the feed is not LOCKED changes nothing. -/
theorem sendCommand_not_locked {code : Byte} {eff : List Byte → State → Answer} {b : List Byte} {s : State}
    (h : ¬ s.Locked) : sendCommand code eff b s = s := by
  unfold sendCommand State.listening
  rw [if_neg]
  intro g
  simp only [Bool.and_eq_true, Bool.not_eq_true', beq_iff_eq] at g
  exact h ⟨g.1, g.2⟩

/-- R158: a command that finds the reply queue full is turned away. -/
theorem sendCommand_full {code : Byte} {eff : List Byte → State → Answer} {b : List Byte} {s : State} (h : s.Locked)
    (g : 32 ≤ s.margin.replies.length) : sendCommand code eff b s = s.turnAway := by
  obtain ⟨h1, h2⟩ := h
  simp [sendCommand, considerCommand, State.listening, h1, h2, g]

/-- R159: a command taken is counted and executed. -/
theorem sendCommand_takes {code : Byte} {eff : List Byte → State → Answer} {b : List Byte} {s : State} (h : s.Takes) :
    sendCommand code eff b s = (eff b s.countTaken).settle code := by
  obtain ⟨⟨h1, h2⟩, h3⟩ := h
  have : ¬ 32 ≤ s.margin.replies.length := by omega
  simp [sendCommand, considerCommand, State.listening, h1, h2, this]

/-- The listening part is the LOCKED part. -/
theorem State.listening_iff (s : State) : s.listening = true ↔ s.Locked := by
  simp [State.listening, State.Locked]

@[simp] theorem settle_refuse (code : Byte) (s : State) (r : ResultCode) :
    (Answer.refuse s.countTaken r).settle code = s.replied code r [] := rfl

@[simp] theorem settle_refuseWith (code : Byte) (s : State) (r : ResultCode) (b : List Byte) :
    (Answer.refuseWith s.countTaken r b).settle code = s.replied code r b := rfl

@[simp] theorem settle_done (code : Byte) (s : State) (b : List Byte) :
    (Answer.done s.countTaken b).settle code = s.replied code .done b := rfl

/-- R159, R165: a code has an effect of its own exactly when the index names it. -/
theorem commandEffect_isNone (code : Byte) : (commandEffect code).isNone = decide (code ∉ commandCodes) := by
  revert code
  decide +kernel

/-- The effect that a row of the command set has on the part when it is taken. -/
def effectOf : Instr → Option (List Byte → State → Answer)
  | .unknownCommand code _ => if code ∈ commandCodes then none else some unknown
  | i => (commandOf i).bind (fun c => commandEffect c.1)

/-- Every row of the command set is sent with its code, its effect and its body. -/
theorem exec_command {i : Instr} {code : Byte} {b : List Byte} (h : commandOf i = some (code, b)) (s : State) :
    ∃ eff, effectOf i = some eff ∧ exec i s = .next (sendCommand code eff b s) := by
  cases i <;> simp only [commandOf, reduceCtorEq, Option.some.injEq, Prod.mk.injEq] at h
  case unknownCommand c b' =>
    split at h
    · simp at h
    · rename_i hc
      simp only [Option.some.injEq, Prod.mk.injEq] at h
      obtain ⟨rfl, rfl⟩ := h
      refine ⟨unknown, by simp [effectOf, hc], ?_⟩
      simp [exec, execUnknownCommand, commandEffect_isNone, hc]
  all_goals
    obtain ⟨rfl, rfl⟩ := h
    exact ⟨_, rfl, rfl⟩

/-! ## Fields of a body -/

theorem u8_lt (b : List Byte) (i : Nat) : u8 b i < 256 := (b.getD i 0).isLt

theorem u16_lt (b : List Byte) (i : Nat) : u16 b i < 65536 := by
  have := u8_lt b i
  have := u8_lt b (i + 1)
  unfold u16
  omega

theorem u32_lt (b : List Byte) (i : Nat) : u32 b i < 4294967296 := by
  have := u16_lt b i
  have := u16_lt b (i + 2)
  unfold u32
  omega

@[simp] theorem put8_eq (n : Nat) : put8 n = [BitVec.ofNat 8 n] := rfl

theorem putFlag_eq (f : Bool) : putFlag f = [if f then 1 else 0] := by cases f <;> rfl

@[simp] theorem length_put16 (n : Nat) : (put16 n).length = 2 := rfl

@[simp] theorem length_put32 (n : Nat) : (put32 n).length = 4 := rfl

@[simp] theorem length_putFlag (f : Bool) : (putFlag f).length = 1 := rfl

/-- A field checked to name one of n things names that thing. -/
theorem finOfNat_eq {n : Nat} [NeZero n] {k : Nat} {i : Fin n} (h : k = i.val) : Fin.ofNat n k = i := by
  subst h
  ext
  simp [Fin.ofNat, Nat.mod_eq_of_lt i.isLt]

theorem val_finOfNat {n : Nat} [NeZero n] {k : Nat} (h : k < n) : (Fin.ofNat n k).val = k := by
  simp [Fin.ofNat, Nat.mod_eq_of_lt h]

/-- A field checked to be 0 or 1, as yes or no. -/
theorem toNat_eq_one {n : Nat} (h : n < 2) : (n == 1).toNat = n := by
  interval_cases n <;> rfl

theorem bankOf_code (b : Bank) : bankOf b.code = b := by cases b <;> rfl

theorem code_bankOf {n : Nat} (h : n < 2) : (bankOf n).code = n := by
  interval_cases n <;> rfl

end Sys2Proof.Machine
end

