-- ==== Sys2Proof/Laws/Tables.lean ====
section
/-! SUPPORT. What the operations on vectors and on tables kept by key do: one lemma for each question asked of them. -/

namespace Sys2Proof.Machine

/-! ## Vectors by index -/

@[simp] theorem getElem_tab {α : Type} {n : Nat} (f : Fin n → α) (i : Nat) (h : i < n) : (tab f)[i] = f ⟨i, h⟩ := by
  simp [tab]

/-- Two vectors with the same entries are equal. -/
theorem vector_ext_fin {α : Type} {n : Nat} {v w : Vector α n} (h : ∀ i : Fin n, v[i] = w[i]) : v = w := by
  ext i hi
  exact h ⟨i, hi⟩

/-- Reading a vector after one entry is set. -/
theorem getElem_set_fin {α : Type} {n : Nat} (v : Vector α n) (k i : Fin n) (x : α) :
    (v.set k x)[i] = if i = k then x else v[i] := by
  simp only [Fin.getElem_fin, Vector.getElem_set, Fin.ext_iff]
  by_cases h : k.val = i.val
  · simp [h]
  · simp [h, Ne.symm h]

/-! ## Tables by key -/

namespace Table

variable {α : Type}

theorem find?_some_mem {t : List (Nat × α)} {k : Nat} {v : α} (h : find? t k = some v) : (k, v) ∈ t := by
  induction t with
  | nil => simp [find?] at h
  | cons e t ih =>
    obtain ⟨j, w⟩ := e
    simp only [find?] at h
    split at h
    · simp_all
    · exact List.mem_cons_of_mem _ (ih h)

theorem find?_none_iff {t : List (Nat × α)} {k : Nat} : find? t k = none ↔ ∀ v, (k, v) ∉ t := by
  induction t with
  | nil => simp [find?]
  | cons e t ih =>
    obtain ⟨j, w⟩ := e
    simp only [find?]
    split
    · rename_i h
      subst h
      simp only [reduceCtorEq, false_iff, not_forall, not_not]
      exact ⟨w, by simp⟩
    · rename_i h
      rw [ih]
      constructor
      · intro g v hv
        rcases List.mem_cons.mp hv with hv | hv
        · exact h (by simp_all)
        · exact g v hv
      · intro g v hv
        exact g v (List.mem_cons_of_mem _ hv)

/-- In a table with rising keys an entry is found by its key. -/
theorem find?_eq_some_iff {t : List (Nat × α)} (h : Rising t) {k : Nat} {v : α} : find? t k = some v ↔ (k, v) ∈ t := by
  refine ⟨find?_some_mem, ?_⟩
  induction t with
  | nil => simp
  | cons e t ih =>
    obtain ⟨j, w⟩ := e
    intro g
    rw [Rising, List.pairwise_cons] at h
    simp only [find?]
    rcases List.mem_cons.mp g with g | g
    · simp_all
    · have := h.1 _ g
      simp only at this
      rw [if_neg (by omega)]
      exact ih h.2 g

@[simp] theorem find?_insert_same (t : List (Nat × α)) (k : Nat) (v : α) : find? (insert t k v) k = some v := by
  induction t with
  | nil => simp [insert, find?]
  | cons e t ih =>
    obtain ⟨j, w⟩ := e
    simp only [insert]
    split
    · simp [find?]
    · split
      · simp [find?]
      · simp only [find?]
        rw [if_neg (by omega)]
        exact ih

theorem find?_insert_other (t : List (Nat × α)) {k n : Nat} (v : α) (h : n ≠ k) : find? (insert t k v) n = find? t n := by
  induction t with
  | nil => simp [insert, find?, Ne.symm h]
  | cons e t ih =>
    obtain ⟨j, w⟩ := e
    simp only [insert]
    split
    · rw [find?, if_neg (by omega)]
    · split
      · subst_vars
        simp [find?, Ne.symm h]
      · simp only [find?, ih]

@[simp] theorem find?_erase_same (t : List (Nat × α)) (k : Nat) : find? (erase t k) k = none := by
  rw [find?_none_iff]
  intro v hv
  simp [erase] at hv

theorem find?_erase_other (t : List (Nat × α)) {k n : Nat} (h : n ≠ k) : find? (erase t k) n = find? t n := by
  induction t with
  | nil => rfl
  | cons e t ih =>
    obtain ⟨j, w⟩ := e
    by_cases hj : j = k
    · subst hj
      have : erase ((j, w) :: t) j = erase t j := by simp [erase]
      rw [this, ih, find?, if_neg (Ne.symm h)]
    · have : erase ((j, w) :: t) k = (j, w) :: erase t k := by simp [erase, hj]
      rw [this]
      simp only [find?, ih]

theorem mem_insert {t : List (Nat × α)} {k : Nat} {v : α} {e : Nat × α} (h : e ∈ insert t k v) : e = (k, v) ∨ e ∈ t := by
  induction t with
  | nil => simpa [insert] using h
  | cons f t ih =>
    obtain ⟨j, w⟩ := f
    simp only [insert] at h
    split at h
    · simpa using h
    · split at h
      · rcases List.mem_cons.mp h with h | h
        · exact Or.inl h
        · exact Or.inr (List.mem_cons_of_mem _ h)
      · rcases List.mem_cons.mp h with h | h
        · exact Or.inr (by simp [h])
        · rcases ih h with h | h
          · exact Or.inl h
          · exact Or.inr (List.mem_cons_of_mem _ h)

/-- An entry of a rising table after an insert: the new one, or an old one with another key. -/
theorem mem_insert_of_rising {t : List (Nat × α)} (h : Rising t) {k : Nat} {v : α} {e : Nat × α} (g : e ∈ insert t k v) :
    e = (k, v) ∨ (e ∈ t ∧ e.1 ≠ k) := by
  induction t with
  | nil => simp [insert] at g; exact Or.inl g
  | cons f t ih =>
    obtain ⟨j, w⟩ := f
    rw [Rising, List.pairwise_cons] at h
    simp only [insert] at g
    split at g
    · rcases List.mem_cons.mp g with g | g
      · exact Or.inl g
      · refine Or.inr ⟨g, ?_⟩
        rcases List.mem_cons.mp g with g | g
        · simp [g]; omega
        · have := h.1 _ g; simp only at this; omega
    · split at g
      · rcases List.mem_cons.mp g with g | g
        · exact Or.inl g
        · have := h.1 _ g
          exact Or.inr ⟨List.mem_cons_of_mem _ g, by simp only at this; omega⟩
      · rcases List.mem_cons.mp g with g | g
        · exact Or.inr ⟨by simp [g], by simp [g]; omega⟩
        · rcases ih h.2 g with g | g
          · exact Or.inl g
          · exact Or.inr ⟨List.mem_cons_of_mem _ g.1, g.2⟩

theorem rising_insert {t : List (Nat × α)} (h : Rising t) (k : Nat) (v : α) : Rising (insert t k v) := by
  induction t with
  | nil => simp [insert]
  | cons e t ih =>
    obtain ⟨j, w⟩ := e
    rw [Rising, List.pairwise_cons] at h
    simp only [insert]
    split
    · rename_i hk
      refine List.pairwise_cons.mpr ⟨?_, List.pairwise_cons.mpr h⟩
      intro f hf
      rcases List.mem_cons.mp hf with hf | hf
      · simp [hf, hk]
      · have := h.1 _ hf; simp only at this ⊢; omega
    · split
      · subst_vars
        exact List.pairwise_cons.mpr h
      · refine List.pairwise_cons.mpr ⟨?_, ih h.2⟩
        intro f hf
        rcases mem_insert hf with hf | hf
        · subst hf; simp only; omega
        · exact h.1 _ hf

theorem rising_erase {t : List (Nat × α)} (h : Rising t) (k : Nat) : Rising (erase t k) := h.sublist List.filter_sublist

theorem mem_erase {t : List (Nat × α)} {k : Nat} {e : Nat × α} : e ∈ erase t k ↔ e ∈ t ∧ e.1 ≠ k := by
  simp [erase]

/-- Writing a key that is absent adds one entry. -/
theorem length_insert_new {t : List (Nat × α)} {k : Nat} (g : find? t k = none) (v : α) :
    (insert t k v).length = t.length + 1 := by
  induction t with
  | nil => simp [insert]
  | cons e t ih =>
    obtain ⟨j, w⟩ := e
    simp only [find?] at g
    split at g
    · simp at g
    · simp only [insert]
      split
      · simp
      · rw [if_neg (by omega)]
        simp [ih g]

/-- Writing a key that is present adds none. -/
theorem length_insert_old {t : List (Nat × α)} (h : Rising t) {k : Nat} (g : find? t k ≠ none) (v : α) :
    (insert t k v).length = t.length := by
  induction t with
  | nil => simp [find?] at g
  | cons e t ih =>
    obtain ⟨j, w⟩ := e
    rw [Rising, List.pairwise_cons] at h
    simp only [find?] at g
    simp only [insert]
    split
    · exfalso
      rw [if_neg (by omega)] at g
      refine g (find?_none_iff.mpr ?_)
      intro x hx
      have := h.1 _ hx
      simp only at this
      omega
    · split
      · simp
      · rw [if_neg (by omega)] at g
        simp [ih h.2 g]

/-- The number of entries after one is written. -/
theorem length_insert {t : List (Nat × α)} (h : Rising t) (k : Nat) (v : α) :
    (insert t k v).length = if find? t k = none then t.length + 1 else t.length := by
  by_cases g : find? t k = none
  · rw [if_pos g, length_insert_new g]
  · rw [if_neg g, length_insert_old h g]

/-- Erasing a key that is present takes one entry away. -/
theorem length_erase {t : List (Nat × α)} (h : Rising t) {k : Nat} {v : α} (g : find? t k = some v) :
    (erase t k).length + 1 = t.length := by
  induction t with
  | nil => simp [find?] at g
  | cons e t ih =>
    obtain ⟨j, w⟩ := e
    rw [Rising, List.pairwise_cons] at h
    by_cases hj : j = k
    · subst hj
      have : erase ((j, w) :: t) j = t := by
        have : ∀ e ∈ t, (e.1 != j) = true := by
          intro f hf
          have := h.1 _ hf
          simp only at this
          simp only [bne_iff_ne]
          omega
        simp [erase, List.filter_eq_self.mpr this]
      rw [this]
      rfl
    · rw [find?, if_neg hj] at g
      have : erase ((j, w) :: t) k = (j, w) :: erase t k := by simp [erase, hj]
      rw [this]
      simp only [List.length_cons, ih h.2 g]

theorem length_insert_le (t : List (Nat × α)) (k : Nat) (v : α) : (insert t k v).length ≤ t.length + 1 := by
  induction t with
  | nil => simp [insert]
  | cons e t ih =>
    obtain ⟨j, w⟩ := e
    simp only [insert]
    split
    · simp
    · split
      · simp
      · simp only [List.length_cons]; omega

/-- A total over the entries after one is written: the new value's share in place of the old one's. -/
theorem sum_insert {t : List (Nat × α)} (h : Rising t) (f : α → Nat) (k : Nat) (v : α) :
    ((insert t k v).map (fun e => f e.2)).sum + ((find? t k).map f).getD 0 = (t.map (fun e => f e.2)).sum + f v := by
  induction t with
  | nil => simp [insert, find?]
  | cons e t ih =>
    obtain ⟨j, w⟩ := e
    rw [Rising, List.pairwise_cons] at h
    simp only [insert, find?]
    split
    · have : find? t k = none := by
        rw [find?_none_iff]
        intro x hx
        have := h.1 _ hx
        simp only at this
        omega
      rw [if_neg (by omega), this]
      simp
      omega
    · split
      · rw [if_pos (by omega)]
        simp
        omega
      · rw [if_neg (by omega)]
        have := ih h.2
        simp only [List.map_cons, List.sum_cons]
        omega

/-- A total over the entries after one is erased. -/
theorem sum_erase {t : List (Nat × α)} (h : Rising t) (f : α → Nat) (k : Nat) :
    ((erase t k).map (fun e => f e.2)).sum + ((find? t k).map f).getD 0 = (t.map (fun e => f e.2)).sum := by
  induction t with
  | nil => simp [erase, find?]
  | cons e t ih =>
    obtain ⟨j, w⟩ := e
    rw [Rising, List.pairwise_cons] at h
    by_cases hj : j = k
    · subst hj
      have : erase ((j, w) :: t) j = t := by
        have : ∀ e ∈ t, (e.1 != j) = true := by
          intro g hg
          have := h.1 _ hg
          simp only at this
          simp only [bne_iff_ne]
          omega
        simp [erase, List.filter_eq_self.mpr this]
      rw [this]
      simp [find?]
      omega
    · have : erase ((j, w) :: t) k = (j, w) :: erase t k := by simp [erase, hj]
      rw [this, find?, if_neg hj]
      have := ih h.2
      simp only [List.map_cons, List.sum_cons]
      omega

/-- Changing the values under their keys keeps the keys rising. -/
theorem rising_map {t : List (Nat × α)} (h : Rising t) (f : Nat → α → α) : Rising (t.map (fun e => (e.1, f e.1 e.2))) := by
  rw [Rising, List.pairwise_map]
  exact h

theorem find?_map (t : List (Nat × α)) (f : Nat → α → α) (n : Nat) :
    find? (t.map (fun e => (e.1, f e.1 e.2))) n = (find? t n).map (f n) := by
  induction t with
  | nil => rfl
  | cons e t ih =>
    obtain ⟨j, w⟩ := e
    simp only [List.map_cons, find?]
    split
    · subst_vars; rfl
    · exact ih

/-- A filter on values keeps, under rising keys, what is found and passes. -/
theorem find?_filter {t : List (Nat × α)} (h : Rising t) (p : α → Bool) (n : Nat) :
    find? (t.filter (fun e => p e.2)) n = (find? t n).filter p := by
  induction t with
  | nil => rfl
  | cons e t ih =>
    obtain ⟨j, w⟩ := e
    rw [Rising, List.pairwise_cons] at h
    by_cases hj : j = n
    · subst hj
      have g : find? t j = none := by
        rw [find?_none_iff]
        intro x hx
        have := h.1 _ hx
        simp only at this
        omega
      have g2 := ih h.2
      rw [g] at g2
      by_cases hp : p w = true
      · simp [hp, find?, Option.filter]
      · simpa [hp, find?, Option.filter] using g2
    · by_cases hp : p w = true
      · simp only [List.filter_cons, hp, if_true, find?, if_neg hj]
        exact ih h.2
      · simp only [List.filter_cons, hp, find?, if_neg hj]
        simpa using ih h.2

end Table

/-! ## Slots -/

/-- Reading a slot after one is written. -/
theorem slot_putSlot (s : State) (n k : Nat) (v : Slot) : (s.putSlot n v).slot k = if k = n then v else s.slot k := by
  unfold State.putSlot State.slot
  by_cases hv : v = Slot.reset
  · by_cases hk : k = n
    · subst hk; simp [hv]
    · simp [hv, hk, Table.find?_erase_other _ hk]
  · by_cases hk : k = n
    · subst hk; simp [hv]
    · simp [hv, hk, Table.find?_insert_other _ _ hk]

/-- Reading a slot after every slot is changed, by a change that leaves a slot with its reset values alone. -/
theorem find?_mapSlots {slots : List (Nat × Slot)} (h : Table.Rising slots) (f : Nat → Slot → Slot)
    (hf : ∀ n, f n Slot.reset = Slot.reset) (n : Nat) :
    (Table.find? (mapSlots f slots) n).getD Slot.reset = f n ((Table.find? slots n).getD Slot.reset) := by
  unfold mapSlots
  rw [Table.find?_filter (p := fun v => v != Slot.reset) (Table.rising_map h f), Table.find?_map]
  cases g : Table.find? slots n with
  | none => simp [hf]
  | some v =>
    by_cases hv : f n v = Slot.reset
    · simp [Option.filter, hv]
    · simp [Option.filter, hv]

theorem rising_mapSlots {slots : List (Nat × Slot)} (h : Table.Rising slots) (f : Nat → Slot → Slot) :
    Table.Rising (mapSlots f slots) := (Table.rising_map h f).sublist List.filter_sublist

/-- An entry after every slot is changed comes from an entry before, and does not hold the reset values. -/
theorem mem_mapSlots {slots : List (Nat × Slot)} {f : Nat → Slot → Slot} {e : Nat × Slot} :
    e ∈ mapSlots f slots ↔ e.2 ≠ Slot.reset ∧ ∃ v, (e.1, v) ∈ slots ∧ e.2 = f e.1 v := by
  unfold mapSlots
  simp only [List.mem_filter, List.mem_map, bne_iff_ne, Prod.exists]
  constructor
  · rintro ⟨⟨a, b, hab, rfl⟩, h⟩
    exact ⟨h, b, hab, rfl⟩
  · rintro ⟨h, v, hv, hf⟩
    exact ⟨⟨e.1, v, hv, by rw [← hf]⟩, h⟩

theorem rising_putSlot {s : State} (h : Table.Rising s.slots) (n : Nat) (v : Slot) : Table.Rising (s.putSlot n v).slots := by
  unfold State.putSlot
  dsimp only
  split
  · exact Table.rising_erase h n
  · exact Table.rising_insert h n v

/-! ## Blocks of the art memory -/

/-- Writing an entry exchanges its old blocks for its new ones. -/
theorem usedBlocks_insert {art : Art} (h : Table.Rising art) (place : Nat) (e : ArtEntry) :
    usedBlocks (Table.insert art place e) + ((Table.find? art place).map (fun x => x.shape.blocks)).getD 0 =
      usedBlocks art + e.shape.blocks := Table.sum_insert h (fun x => x.shape.blocks) place e

/-- Erasing an entry frees its blocks. -/
theorem usedBlocks_erase {art : Art} (h : Table.Rising art) (place : Nat) :
    usedBlocks (Table.erase art place) + ((Table.find? art place).map (fun x => x.shape.blocks)).getD 0 = usedBlocks art :=
  Table.sum_erase h (fun x => x.shape.blocks) place

/-- R179: the block count is the size in blocks of 4096 bytes, rounded up. -/
theorem blocks_bounds (shape : Shape) : shape.size ≤ 4096 * shape.blocks ∧ 4096 * shape.blocks < shape.size + 4096 := by
  simp only [Shape.blocks, Config.blockBytes]
  omega

end Sys2Proof.Machine
end

