-- ==== Sys2Proof/Laws/Answers.lean ====
section
/-! SUPPORT. What every command leaves (R159, R160, R166): a reply that a return packet can carry, the margin channel and the queue
of waiting commands as they were, and nothing changed at all where the command is refused. -/

namespace Sys2Proof.Machine

/-- The command leaves a reply and, if it is refused, nothing else. -/
def Answer.Proper (s : State) (a : Answer) : Prop :=
  ∃ r b, a.reply = some (r, b) ∧ (ArtOk s.art → b.length ≤ 240) ∧ a.state.margin = s.margin ∧
    a.state.pending = s.pending ∧ a.state.resetPin = s.resetPin ∧ (r = .done ∨ r = .badCheck ∨ a.state = s)

theorem proper_refuse (s : State) (r : ResultCode) : (Answer.refuse s r).Proper s :=
  ⟨r, [], rfl, fun _ => Nat.zero_le _, rfl, rfl, rfl, Or.inr (Or.inr rfl)⟩

theorem proper_refuseWith (s : State) (r : ResultCode) {b : List Byte} (h : b.length ≤ 240) :
    (Answer.refuseWith s r b).Proper s := ⟨r, b, rfl, fun _ => h, rfl, rfl, rfl, Or.inr (Or.inr rfl)⟩

theorem proper_done {s t : State} {b : List Byte} (h : ArtOk s.art → b.length ≤ 240) (h1 : t.margin = s.margin)
    (h2 : t.pending = s.pending) (h3 : t.resetPin = s.resetPin) : (Answer.done t b).Proper s :=
  ⟨.done, b, rfl, h, h1, h2, h3, Or.inl rfl⟩

theorem proper_badCheck {s t : State} {b : List Byte} (h : ArtOk s.art → b.length ≤ 240) (h1 : t.margin = s.margin)
    (h2 : t.pending = s.pending) (h3 : t.resetPin = s.resetPin) : (Answer.refuseWith t .badCheck b).Proper s :=
  ⟨.badCheck, b, rfl, h, h1, h2, h3, Or.inr (Or.inl rfl)⟩

/-! ## Lengths of reply bodies -/

@[simp] theorem length_putPrice (p : Option Nat) : (putPrice p).length = 4 := by cases p <;> rfl

theorem length_flatMap_const {α : Type} (l : List α) (f : α → List Byte) (n : Nat) (h : ∀ a, (f a).length = n) :
    (l.flatMap f).length = l.length * n := by
  simp [List.length_flatMap, h]

theorem length_listing (codes : List Nat) : (listing codes).length ≤ 202 := by
  unfold listing
  simp only [List.length_append, length_putFlag, put8_eq, List.length_cons, List.length_nil]
  rw [length_flatMap_const _ _ 2 (fun _ => rfl), List.length_take]
  have : min Config.listLimit codes.length ≤ 100 := Nat.min_le_left _ _
  omega

@[simp] theorem length_treatmentBody (t : Treatment) : (treatmentBody t).length = 3 := by
  unfold treatmentBody
  split <;> rfl

theorem length_slotBody (n : Nat) (r : SlotRecord) : (slotBody n r).length = 47 := by
  unfold slotBody
  simp [putColour]

theorem length_groupBody (outputs : Vector Output 4) (i : Fin 4) (g : Group) : (groupBody outputs i g).length = 25 := by
  unfold groupBody
  generalize outputMask outputs _ = members
  generalize outputMask outputs _ = ready
  simp

theorem length_latestBody (w : Option AbilityWord) : (latestBody w).length = 8 := by cases w <;> rfl

theorem length_outputBody (k : Nat) (o : Output) : (outputBody k o).length = 25 := by
  simp [outputBody, length_latestBody]

theorem length_resyncBody (chosen : Option (Nat × Entry)) (g : Group) : (resyncBody chosen g).length = 2 := by
  cases chosen <;> simp [resyncBody]

theorem length_clockBody (c : Clock) : (clockBody c).length = 6 := by simp [clockBody]

theorem length_statusBody (s : State) : (statusBody s).length = 83 := by
  unfold statusBody
  simp only [List.length_append, length_putFlag, put8_eq, List.length_cons, List.length_nil, length_put32, length_put16,
    length_clockBody]
  rw [length_flatMap_const _ Output.dropsBody 8 (fun _ => by simp [Output.dropsBody]),
    length_flatMap_const _ Output.latchesBody 3 (fun _ => by simp [Output.latchesBody]),
    length_flatMap_const _ Group.statusBody 3 (fun _ => by simp [Group.statusBody])]
  simp

theorem length_feedBody (f : Feed) : (feedBody f).length = 15 := by simp [feedBody]

theorem length_placeName (place : Nat) : (placeName place).length = 2 := by
  unfold placeName
  split <;> rfl

theorem artPlace_lt {kind number place : Nat} (h : artPlace kind number = some place) :
    place < 67 ∧ (place < 4 ↔ kind = 0) ∧ (kind = 0 ∨ kind = 1) := by
  unfold artPlace at h
  split at h
  · split at h
    · simp only [Option.some.injEq] at h
      omega
    · simp at h
  · split at h
    · split at h
      · simp only [Option.some.injEq] at h
        omega
      · simp at h
    · simp at h

theorem length_artEntryBody {art : Art} (h : ArtOk art) {kind number place : Nat} (g : artPlace kind number = some place)
    (used : Bool) : (artEntryBody kind used (Table.find? art place)).length = 12 + if kind = 0 then 31 else 7 := by
  cases e : Table.find? art place with
  | none =>
    simp only [artEntryBody, shapeBody, List.length_append, length_put16, length_put32, length_putFlag, put8_eq,
      List.length_cons, List.length_nil, List.length_replicate]
  | some e' =>
    have ok := (h.2.1 _ (Table.find?_some_mem e)).2.2
    have := artPlace_lt g
    simp only [artEntryBody]
    cases hs : e'.shape with
    | glyphSet hgt adv =>
      rw [hs] at ok
      simp only [Shape.OkAt] at ok
      rw [if_pos (this.2.1.mp ok.1)]
      simp only [shapeBody, List.length_append, length_put16, length_put32, length_putFlag, put8_eq, List.length_cons,
        List.length_nil]
      rw [length_flatMap_const _ _ 1 (fun _ => rfl), ok.2]
    | card w hgt fill =>
      rw [hs] at ok
      simp only [Shape.OkAt] at ok
      have hk : kind ≠ 0 := fun hk => absurd (this.2.1.mpr hk) (by omega)
      simp [shapeBody, putColour, hk]

/-! ## Every command -/

theorem rebindSlot_frame (n : Nat) (r : Option SlotRecord) (s : State) :
    s.rebindSlot n r =
      { s with slots := (s.rebindSlot n r).slots, notices := (s.rebindSlot n r).notices } := by
  unfold State.rebindSlot
  split
  · rw [State.raisePhotoWatch, State.raise_eq]
    rfl
  · rfl

theorem rebindSlot_others (n : Nat) (r : Option SlotRecord) (s : State) :
    (s.rebindSlot n r).margin = s.margin ∧ (s.rebindSlot n r).pending = s.pending ∧
      (s.rebindSlot n r).resetPin = s.resetPin := by
  rw [rebindSlot_frame]
  exact ⟨rfl, rfl, rfl⟩

theorem proper_itemPut (b : List Byte) (s : State) : (itemPut b s).Proper s := by
  unfold itemPut
  split
  · exact proper_refuse _ _
  split
  · exact proper_refuse _ _
  split
  · exact proper_done (fun _ => by simp) (by simp [State.putItem]) (by simp [State.putItem]) (by simp [State.putItem])
  split
  · exact proper_refuse _ _
  · exact proper_done (fun _ => by simp) (by simp [State.putItem]) (by simp [State.putItem]) (by simp [State.putItem])


theorem proper_itemDrop (b : List Byte) (s : State) : (itemDrop b s).Proper s := by
  unfold itemDrop
  split
  · exact proper_refuse _ _
  split
  · exact proper_refuse _ _
  split
  · exact proper_refuse _ _
  · exact proper_done (fun _ => by simp) (by simp) (by simp) (by simp)


theorem proper_itemGet (b : List Byte) (s : State) : (itemGet b s).Proper s := by
  unfold itemGet
  split
  · exact proper_refuse _ _
  split
  · exact proper_refuse _ _
  split
  · exact proper_refuse _ _
  · exact proper_done (fun _ => by simp [itemBody]) (by simp) (by simp) (by simp)


theorem proper_itemList (b : List Byte) (s : State) : (itemList b s).Proper s := by
  unfold itemList
  split
  · exact proper_refuse _ _
  · exact proper_done (fun _ => (length_listing _).trans (by omega)) (by simp) (by simp) (by simp)


theorem proper_availList (b : List Byte) (s : State) : (availList b s).Proper s := by
  unfold availList
  split
  · exact proper_refuse _ _
  · exact proper_done (fun _ => (length_listing _).trans (by omega)) (by simp) (by simp) (by simp)


theorem proper_pricePut (b : List Byte) (s : State) : (pricePut b s).Proper s := by
  unfold pricePut
  split
  · exact proper_refuseWith _ _ (by simp)
  split
  · exact proper_refuseWith _ _ (by simp)
  split
  · exact proper_refuseWith _ _ (by simp)
  · exact proper_done (fun _ => by simp) (by simp) (by simp) (by simp)


theorem proper_formatPut (b : List Byte) (s : State) : (formatPut b s).Proper s := by
  unfold formatPut
  split
  · exact proper_refuse _ _
  split
  · exact proper_refuse _ _
  split
  · exact proper_refuse _ _
  · exact proper_done (fun _ => by simp) (by simp) (by simp) (by simp)


theorem proper_formatGet (b : List Byte) (s : State) : (formatGet b s).Proper s := by
  unfold formatGet
  split
  · exact proper_refuse _ _
  split
  · exact proper_refuse _ _
  · exact proper_done (fun _ => by simp [formatBody]) (by simp) (by simp) (by simp)


theorem proper_formatMode (b : List Byte) (s : State) : (formatMode b s).Proper s := by
  unfold formatMode
  split
  · exact proper_done (fun _ => by simp [formatModeBody]) (by simp) (by simp) (by simp)
  split
  · exact proper_refuse _ _
  split
  · exact proper_refuse _ _
  · exact proper_done (fun _ => by simp [formatModeBody]) (by simp) (by simp) (by simp)


theorem proper_slotPut (b : List Byte) (s : State) : (slotPut b s).Proper s := by
  unfold slotPut
  split
  · exact proper_refuse _ _
  split
  · exact proper_refuse _ _
  · exact proper_done (fun _ => by simp) (by simp [rebindSlot_others]) (by simp [rebindSlot_others]) (by simp [rebindSlot_others])


theorem proper_slotDrop (b : List Byte) (s : State) : (slotDrop b s).Proper s := by
  unfold slotDrop
  split
  · exact proper_refuse _ _
  split
  · exact proper_refuse _ _
  · exact proper_done (fun _ => by simp) (by simp [rebindSlot_others]) (by simp [rebindSlot_others]) (by simp [rebindSlot_others])


theorem proper_slotGet (b : List Byte) (s : State) : (slotGet b s).Proper s := by
  unfold slotGet
  split
  · exact proper_refuse _ _
  split
  · exact proper_refuse _ _
  · exact proper_done (fun _ => by simp [length_slotBody]) (by simp) (by simp) (by simp)


theorem proper_mark (b : List Byte) (s : State) : (mark b s).Proper s := by
  unfold mark
  split
  · exact proper_refuse _ _
  split
  · exact proper_refuse _ _
  split
  · exact proper_refuse _ _
  · exact proper_done (fun _ => by simp [soldOutBody]) (by simp [State.putItem]) (by simp [State.putItem]) (by simp [State.putItem])


theorem proper_linePut (b : List Byte) (s : State) : (linePut b s).Proper s := by
  unfold linePut
  split
  · exact proper_refuse _ _
  split
  · exact proper_refuse _ _
  · exact proper_done (fun _ => by simp) (by simp) (by simp) (by simp)


theorem proper_lineGet (b : List Byte) (s : State) : (lineGet b s).Proper s := by
  unfold lineGet
  split
  · exact proper_refuse _ _
  split
  · exact proper_refuse _ _
  · exact proper_done (fun _ => by simp [lineBody]) (by simp) (by simp) (by simp)


theorem proper_groupPut (b : List Byte) (s : State) : (groupPut b s).Proper s := by
  unfold groupPut
  split
  · exact proper_refuse _ _
  split
  · exact proper_refuse _ _
  dsimp only
  split
  · exact proper_refuse _ _
  · exact proper_done (fun _ => by simp) (by simp) (by simp) (by simp)


theorem proper_groupGet (b : List Byte) (s : State) : (groupGet b s).Proper s := by
  unfold groupGet
  split
  · exact proper_refuse _ _
  split
  · exact proper_refuse _ _
  · exact proper_done (fun _ => by simp [length_groupBody]) (by simp) (by simp) (by simp)


theorem proper_flipCommand (b : List Byte) (s : State) : (flipCommand b s).Proper s := by
  unfold flipCommand
  split
  · exact proper_refuse _ _
  split
  · exact proper_refuse _ _
  · exact proper_done (fun _ => by rw [length_flatMap_const _ _ 1 (fun _ => rfl)]; simp) (by simp) (by simp) (by simp)


theorem proper_holdOrRelease (f : Bool) (b : List Byte) (s : State) : (holdOrRelease f b s).Proper s := by
  unfold holdOrRelease
  split
  · exact proper_refuse _ _
  split
  · exact proper_refuse _ _
  · exact proper_done (fun _ => by rw [length_flatMap_const _ _ 1 (fun _ => rfl)]; simp) (by simp) (by simp) (by simp)

theorem proper_hold (b : List Byte) (s : State) : (hold b s).Proper s := by
  exact proper_holdOrRelease _ _ _


theorem proper_release (b : List Byte) (s : State) : (release b s).Proper s := by
  exact proper_holdOrRelease _ _ _


theorem proper_resync {s t : State} (h1 : t.margin = s.margin) (h2 : t.pending = s.pending) (h3 : t.resetPin = s.resetPin) :
    (resync t).Proper s := by
  unfold resync
  exact proper_done (fun _ => by rw [length_flatMap_const _ _ 2 (fun _ => length_resyncBody _ _)]; simp) h1 h2 h3

theorem proper_clockSet (b : List Byte) (s : State) : (clockSet b s).Proper s := by
  unfold clockSet
  split
  · split
    · exact proper_resync rfl rfl rfl
    · exact proper_refuse _ _
  split
  · exact proper_refuse _ _
  split
  · exact proper_refuse _ _
  · exact proper_resync rfl rfl rfl


theorem proper_clockGet (b : List Byte) (s : State) : (clockGet b s).Proper s := by
  unfold clockGet
  split
  · exact proper_refuse _ _
  · exact proper_done (fun _ => by simp [length_clockBody]) (by simp) (by simp) (by simp)


theorem proper_schedulePut (b : List Byte) (s : State) : (schedulePut b s).Proper s := by
  unfold schedulePut
  split
  · exact proper_refuse _ _
  split
  · exact proper_refuse _ _
  split
  · exact proper_refuseWith _ _ (by simp)
  · exact proper_done (fun _ => by simp) (by simp) (by simp) (by simp)


theorem proper_scheduleDrop (b : List Byte) (s : State) : (scheduleDrop b s).Proper s := by
  unfold scheduleDrop
  split
  · exact proper_refuse _ _
  split
  · exact proper_refuse _ _
  split
  · exact proper_refuse _ _
  · exact proper_done (fun _ => by simp) (by simp) (by simp) (by simp)


theorem proper_scheduleGet (b : List Byte) (s : State) : (scheduleGet b s).Proper s := by
  unfold scheduleGet
  split
  · exact proper_refuse _ _
  split
  · exact proper_refuse _ _
  split
  · exact proper_refuse _ _
  · exact proper_done (fun _ => by simp [entryBody]) (by simp) (by simp) (by simp)


theorem proper_outputPut (b : List Byte) (s : State) : (outputPut b s).Proper s := by
  unfold outputPut
  split
  · exact proper_refuse _ _
  split
  · exact proper_refuse _ _
  · exact proper_done (fun _ => by simp) (by simp) (by simp) (by simp)


theorem proper_outputGet (b : List Byte) (s : State) : (outputGet b s).Proper s := by
  unfold outputGet
  split
  · exact proper_refuse _ _
  split
  · exact proper_refuse _ _
  · exact proper_done (fun _ => by simp [length_outputBody]) (by simp) (by simp) (by simp)


theorem proper_panelRelink (b : List Byte) (s : State) : (panelRelink b s).Proper s := by
  unfold panelRelink
  split
  · exact proper_refuse _ _
  split
  · exact proper_refuse _ _
  · exact proper_done (fun _ => by rw [length_flatMap_const _ _ 1 (fun _ => rfl)]; simp) (by simp) (by simp) (by simp)


theorem proper_feedPut (b : List Byte) (s : State) : (feedPut b s).Proper s := by
  unfold feedPut
  split
  · exact proper_refuse _ _
  split
  · exact proper_refuse _ _
  · exact proper_done (fun _ => by simp) (by simp) (by simp) (by simp)


theorem proper_feedGet (b : List Byte) (s : State) : (feedGet b s).Proper s := by
  unfold feedGet
  split
  · exact proper_refuse _ _
  · exact proper_done (fun _ => by simp [length_feedBody]) (by simp) (by simp) (by simp)


theorem proper_status (b : List Byte) (s : State) : (status b s).Proper s := by
  unfold status
  split
  · exact proper_refuse _ _
  · exact proper_done (fun _ => by simp [length_statusBody]) (by simp [State.clearLatches]) (by simp [State.clearLatches]) (by simp [State.clearLatches])


theorem proper_noticePut (b : List Byte) (s : State) : (noticePut b s).Proper s := by
  unfold noticePut
  split
  · exact proper_refuse _ _
  split
  · exact proper_refuse _ _
  · exact proper_done (fun _ => by simp) (by simp) (by simp) (by simp)


theorem proper_artOpenAt (place : Nat) (shape : Shape) (s : State) : (artOpenAt place shape s).Proper s := by
  unfold artOpenAt
  split
  · exact proper_refuseWith _ _ (by simp [length_placeName])
  split
  · exact proper_refuse _ _
  split
  · exact proper_refuse _ _
  · exact proper_done (fun _ => by simp [openBody]) (by simp) (by simp) (by simp)

theorem proper_artOpen (b : List Byte) (s : State) : (artOpen b s).Proper s := by
  unfold artOpen
  split
  · exact proper_refuse _ _
  split
  · exact proper_refuse _ _
  by_cases h : b.length ≠ (if u8 b 0 = 0 then 33 else 9)
  · rw [if_pos h]
    exact proper_refuse _ _
  rw [if_neg h]
  split
  · exact proper_refuse _ _
  · exact proper_artOpenAt _ _ _


theorem proper_artWrite (b : List Byte) (s : State) : (artWrite b s).Proper s := by
  unfold artWrite
  split
  · exact proper_refuse _ _
  split
  · exact proper_refuse _ _
  split
  · exact proper_refuse _ _
  split
  · exact proper_refuseWith _ _ (by simp)
  split
  · exact proper_refuse _ _
  · exact proper_done (fun _ => by simp) (by simp) (by simp) (by simp)


theorem proper_artClose (b : List Byte) (s : State) : (artClose b s).Proper s := by
  unfold artClose
  split
  · exact proper_refuse _ _
  split
  · exact proper_refuse _ _
  split
  · exact proper_refuse _ _
  split
  · exact proper_done (fun _ => by simp) (by simp) (by simp) (by simp)
  · exact proper_badCheck (fun _ => by simp) (by simp) (by simp) (by simp)


theorem proper_artDrop (b : List Byte) (s : State) : (artDrop b s).Proper s := by
  unfold artDrop
  split
  · exact proper_refuse _ _
  split
  · exact proper_refuse _ _
  split
  · exact proper_refuse _ _
  split
  · exact proper_refuse _ _
  · exact proper_done (fun _ => by simp) (by simp) (by simp) (by simp)


theorem proper_artGet (b : List Byte) (s : State) : (artGet b s).Proper s := by
  unfold artGet
  split
  · exact proper_refuse _ _
  split
  · exact proper_refuse _ _
  · rename_i place g
    refine proper_done (fun ok => ?_) rfl rfl rfl
    simp only [List.length_append, put8_eq, List.length_cons, List.length_nil, length_artEntryBody ok g]
    split <;> omega


theorem proper_unknown (b : List Byte) (s : State) : (unknown b s).Proper s := by
  exact proper_refuse _ _


/-- Every row of the command set but a RESTART that resets leaves a reply and, if refused, nothing else. -/
theorem proper_effectOf {i : Instr} {code : Byte} {b : List Byte} (h : commandOf i = some (code, b))
    {eff : List Byte → State → Answer} (g : effectOf i = some eff) (n : ¬ (code = 0x01 ∧ b = [])) (s : State) :
    (eff b s).Proper s := by
  cases i <;> simp only [commandOf, reduceCtorEq, Option.some.injEq, Prod.mk.injEq] at h
  case unknownCommand c b' =>
    simp only [effectOf] at g
    split at g
    · simp at g
    · simp only [Option.some.injEq] at g
      subst g
      exact proper_unknown _ _
  all_goals
    obtain ⟨rfl, rfl⟩ := h
    cases g
  case restart =>
    unfold restart
    rw [if_pos (by intro hb; exact n ⟨rfl, List.length_eq_zero_iff.mp hb⟩)]
    exact proper_refuse _ _
  case itemPut => exact proper_itemPut _ _
  case itemDrop => exact proper_itemDrop _ _
  case itemGet => exact proper_itemGet _ _
  case itemList => exact proper_itemList _ _
  case pricePut => exact proper_pricePut _ _
  case formatPut => exact proper_formatPut _ _
  case formatGet => exact proper_formatGet _ _
  case formatMode => exact proper_formatMode _ _
  case slotPut => exact proper_slotPut _ _
  case slotDrop => exact proper_slotDrop _ _
  case slotGet => exact proper_slotGet _ _
  case mark => exact proper_mark _ _
  case availList => exact proper_availList _ _
  case linePut => exact proper_linePut _ _
  case lineGet => exact proper_lineGet _ _
  case groupPut => exact proper_groupPut _ _
  case groupGet => exact proper_groupGet _ _
  case flip => exact proper_flipCommand _ _
  case hold => exact proper_hold _ _
  case release => exact proper_release _ _
  case clockSet => exact proper_clockSet _ _
  case clockGet => exact proper_clockGet _ _
  case schedulePut => exact proper_schedulePut _ _
  case scheduleDrop => exact proper_scheduleDrop _ _
  case scheduleGet => exact proper_scheduleGet _ _
  case outputPut => exact proper_outputPut _ _
  case outputGet => exact proper_outputGet _ _
  case panelRelink => exact proper_panelRelink _ _
  case feedPut => exact proper_feedPut _ _
  case feedGet => exact proper_feedGet _ _
  case status => exact proper_status _ _
  case noticePut => exact proper_noticePut _ _
  case artOpen => exact proper_artOpen _ _
  case artWrite => exact proper_artWrite _ _
  case artClose => exact proper_artClose _ _
  case artDrop => exact proper_artDrop _ _
  case artGet => exact proper_artGet _ _

end Sys2Proof.Machine
end

