-- ==== Sys2Proof/Laws/Bodies.lean ====
section
/-! SUPPORT. What the operand forms read and write: item, slot and treatment bodies, the pairs of PRICE PUT, digits of a price, and the bits
of the sets. -/

namespace Sys2Proof.Machine

/-- A byte read is the byte written. -/
theorem put8_u8 (b : List Byte) (i : Nat) : put8 (u8 b i) = [b.getD i 0] := by simp [u8]

/-- Two bytes read are the two bytes written. -/
theorem put16_u16 (b : List Byte) (i : Nat) : put16 (u16 b i) = [b.getD i 0, b.getD (i+1) 0] := by
  have := u8_lt b i; have := u8_lt b (i+1)
  simp only [put16, u16]
  congr 1
  · rw [show (u8 b i * 256 + u8 b (i + 1)) / 256 = u8 b i by omega]; simp [u8]
  · congr 1
    apply BitVec.eq_of_toNat_eq
    simp only [BitVec.toNat_ofNat]
    have : (b.getD (i+1) 0).toNat = u8 b (i+1) := rfl
    rw [this]
    omega

/-- A body is the list of its bytes. -/
theorem eq_map_getD (b : List Byte) (n : Nat) (h : b.length = n) : b = (List.range n).map (fun i => b.getD i 0) := by
  apply List.ext_getElem
  · simp [h]
  · intro i h1 h2
    simp [h1]

/-- A reply of one byte for each group or output. -/
theorem flatMap_four_bytes (f : Fin 4 → List Byte) (g : Fin 4 → Byte) (h : ∀ i, f i = [g i]) :
    (List.finRange 4).flatMap f = [g 0, g 1, g 2, g 3] := by
  have : List.finRange 4 = [0, 1, 2, 3] := by decide
  rw [this]; simp [h]

/-- A reply of four parts, one for each group or output. -/
theorem flatMap_four (f : Fin 4 → List Byte) : (List.finRange 4).flatMap f = f 0 ++ f 1 ++ f 2 ++ f 3 := by
  have : List.finRange 4 = [0, 1, 2, 3] := by decide
  rw [this]; simp

/-! ## Items (R6 to R8, R11) -/

/-- R7, R8: each field of the record read from an ITEM PUT body. -/
theorem readItem_fields (b : List Byte) (pa pb : Option Nat) (h1 : u8 b 10 < 8) (h2 : u8 b 11 < 8 ∨ u8 b 11 =
    255) (h3 : u8 b 12 < 64) :
   let new := readItem b pa pb
   new.priceA = pa ∧ new.priceB = pb ∧ new.format.val = u8 b 10 ∧
          (new.stockClass.map (·.val)).getD 255 = u8 b 11 ∧ (new.badge.map (·.val + 1)).getD 0 = u8 b 12 ∧
          new.soldOut = (u8 b 13).testBit 0 ∧ new.localOnly = (u8 b 13).testBit 1 ∧ new.notify = (u8 b 13).testBit 2 := by
  refine ⟨rfl, rfl, val_finOfNat h1, ?_, ?_, rfl, rfl, rfl⟩
  · simp only [readItem]
    split
    · simp; omega
    · simp only [Option.map_some, Option.getD_some]; exact val_finOfNat (by omega)
  · simp only [readItem, cardOf]
    split
    · simp; omega
    · simp only [Option.map_some, Option.getD_some]; rw [val_finOfNat (by omega)]; omega

/-- R3: an ABSENT price is FFFFFFFFh. -/
theorem putPrice_eq (p : Option Nat) : putPrice p = put32 (p.getD 0xFFFFFFFF) := by cases p <;> rfl

/-- Class NONE is 255. -/
theorem classCode_eq (p : Option (Fin 8)) : classCode p = (p.map (·.val)).getD 255 := by cases p <;> rfl

/-- No card is 0. -/
theorem cardCode_eq (p : Option (Fin 63)) : cardCode p = (p.map (·.val+1)).getD 0 := by cases p <;> rfl

/-! ## The pairs of PRICE PUT (R13 to R15) -/

/-- R13: a body of any other length holds no pairs. -/
theorem pairCount_none {b : List Byte} (h : ∀ n, 1 ≤ n → n ≤ 39 → b.length ≠ 1 + 6 * n) : pairCount b = none := by
  simp only [pairCount]
  rw [if_neg]
  rintro ⟨h1, h2, h3⟩
  exact h _ h2 h3 h1

/-- R13: a body of 1 + 6 n bytes holds n pairs. -/
theorem pairCount_some {b : List Byte} {n : Nat} (h1 : 1 ≤ n) (h2 : n ≤ 39) (h : b.length = 1 + 6 * n) : pairCount b =
    some n := by
  have : (b.length - 1) / 6 = n := by omega
  simp only [pairCount, this]
  rw [if_pos ⟨h, h1, h2⟩]

/-- R14: the first pair with a fault decides the answer. -/
theorem firstPairFault_at (items : List (Nat × Item)) : ∀ (ps : List (Nat × Nat)) (idx : Nat) (earlier : List Nat) (k :
    Nat) (hk : k < ps.length) (r : ResultCode),
   (∀ j (hj : j < k), pairFault items ((ps.take j).map (·.1) |>.reverse |> (· ++ earlier)) (ps[j]'(by omega)) = none) →
   pairFault items (((ps.take k).map (·.1)).reverse ++ earlier) ps[k] = some r →
   firstPairFault items idx earlier ps = some (idx + k, r) := by
  intro ps
  induction ps with
  | nil => intro idx e k hk; simp at hk
  | cons p ps ih =>
    intro idx earlier k hk r h1 h2
    cases k with
    | zero => simp at h2; simp [firstPairFault, h2]
    | succ k =>
      have := h1 0 (by omega)
      simp at this
      simp only [firstPairFault, this]
      rw [ih (idx+1) (p.1 :: earlier) k (by simpa using hk) r]
      · simp; omega
      · intro j hj
        have := h1 (j+1) (by omega)
        simpa using this
      · simpa using h2

/-- R14: no pair with a fault. -/
theorem firstPairFault_none (items : List (Nat × Item)) : ∀ (ps : List (Nat × Nat)) (idx : Nat) (earlier : List Nat),
   (∀ j (hj : j < ps.length), pairFault items (((ps.take j).map (·.1)).reverse ++ earlier) (ps[j]'(by omega)) = none) →
   firstPairFault items idx earlier ps = none := by
  intro ps
  induction ps with
  | nil => intros; rfl
  | cons p ps ih =>
    intro idx earlier h1
    have := h1 0 (by simp)
    simp at this
    simp only [firstPairFault, this]
    apply ih
    intro j hj
    have := h1 (j+1) (by simpa using hj)
    simpa using this

/-- R15: each item takes the price of the pair that names it. -/
theorem applyPairs_eq (sel pairs) (items : List (Nat × Item)) : applyPairs sel pairs items = items.map (fun e => (e.1,
    ((Table.find? pairs e.1).map (fun n => e.2.setPrice sel (priceOf n))).getD e.2)) := by
  unfold applyPairs
  apply List.map_congr_left
  intro e he
  cases Table.find? pairs e.1 <;> rfl

/-- R15: an item after the pairs are applied. -/
theorem find?_applyPairs (sel pairs) (items : List (Nat × Item)) (c : Nat) :
    Table.find? (applyPairs sel pairs items) c =
    (Table.find? items c).map (fun v => ((Table.find? pairs c).map (fun n => v.setPrice sel (priceOf n))).getD v) := by
  rw [applyPairs_eq]
  exact Table.find?_map items (fun k v => ((Table.find? pairs k).map (fun n => v.setPrice sel (priceOf n))).getD v) c

/-! ## Digits (R24) -/

/-- The digits of a number without leading zeros. -/
theorem decimalDigits_value (fuel n : Nat) (h : n < 10 ^ (fuel + 1)) :
    (decimalDigits fuel n).foldl (fun a d => 10 * a + d) 0 = n ∧ (∀ d ∈ decimalDigits fuel n, d < 10) ∧
    ((decimalDigits fuel n).head? = some 0 → n = 0 ∧ decimalDigits fuel n = [0]) := by
  induction fuel generalizing n with
  | zero =>
    have : n % 10 = n := by omega
    simp [decimalDigits, this]; omega
  | succ fuel ih =>
    simp only [decimalDigits]
    split
    · simp; omega
    · have := ih (n / 10) (by omega)
      refine ⟨?_, ?_, ?_⟩
      · rw [List.foldl_append, this.1]; simp; omega
      · intro d hd
        simp at hd
        rcases hd with hd | hd
        · exact this.2.1 d hd
        · omega
      · intro hh
        exfalso
        have ne : decimalDigits fuel (n/10) ≠ [] := by
          cases fuel <;> simp [decimalDigits]
          split <;> simp
        rw [List.head?_append_of_ne_nil _ ne] at hh
        have := (this.2.2 hh).1
        omega

/-- The digits of a number in a fixed number of places. -/
theorem paddedDigits_value (d n : Nat) : (paddedDigits d n).length = d ∧
    (paddedDigits d n).foldl (fun a x => 10 * a + x) 0 = n % 10 ^ d ∧
    ∀ x ∈ paddedDigits d n, x < 10 := by
  induction d generalizing n with
  | zero => simp [paddedDigits]; omega
  | succ d ih =>
    obtain ⟨h1, h2, h3⟩ := ih (n / 10)
    simp only [paddedDigits]
    refine ⟨by simp [h1], ?_, ?_⟩
    · rw [List.foldl_append, h2]; simp; rw [pow_succ];
      rw [Nat.mul_comm (10^d) 10, Nat.mod_mul]; omega
    · intro x hx; simp at hx; rcases hx with hx | hx
      · exact h3 x hx
      · omega

/-- One group mark for every three digits after the first. -/
theorem length_groupDigits (m : Nat) (l : List Nat) : (groupDigits m l).length = l.length + (l.length - 1) / 3 := by
  induction l with
  | nil => rfl
  | cons d l ih =>
    simp only [groupDigits]
    split
    · rename_i h
      have : l.length ≠ 0 := by intro h2; exact h.2 (List.length_eq_zero_iff.mp h2)
      simp [ih]; omega
    · rename_i h
      simp [ih]
      by_cases h2 : l = []
      · subst h2; rfl
      · have : l.length % 3 ≠ 0 := fun h3 => h ⟨h3, h2⟩
        omega

/-- R26: a number below 10 to the power of the places has at least one digit and at most that many. -/
theorem length_decimalDigits {fuel n places : Nat} (h : n < 10 ^ places) (h1 : 1 ≤ places) (h2 : places ≤ fuel + 1) :
    1 ≤ (decimalDigits fuel n).length ∧ (decimalDigits fuel n).length ≤ places := by
  induction fuel generalizing n places with
  | zero => simpa [decimalDigits] using h1
  | succ fuel ih =>
    rw [decimalDigits]
    split
    · simpa using h1
    · rename_i big
      obtain ⟨k, rfl⟩ : ∃ k, places = k + 1 := ⟨places - 1, by omega⟩
      have hk : k ≠ 0 := by rintro rfl; omega
      have := ih (n := n / 10) (places := k) (by rw [pow_succ] at h; omega) (by omega) (by omega)
      simp only [List.length_append, List.length_singleton]
      omega

/-- R27: up to three digits carry no group mark. -/
theorem groupDigits_short (m : Nat) {l : List Nat} (h : l.length ≤ 3) : groupDigits m l = l := by
  match l, h with
  | [], _ => rfl
  | [_], _ => rfl
  | [_, _], _ => rfl
  | [_, _, _], _ => rfl

/-- R27: where a whole number of triples stands to the right, a group mark stands before them. -/
theorem groupDigits_append (m : Nat) {l r : List Nat} (hl : l ≠ []) (hr : r ≠ []) (h : r.length % 3 = 0) :
    groupDigits m (l ++ r) = groupDigits m l ++ m :: groupDigits m r := by
  induction l with
  | nil => exact absurd rfl hl
  | cons d l ih =>
    by_cases e : l = []
    · subst e
      simp [groupDigits, h, hr]
    · have hlen : (l ++ r).length % 3 = l.length % 3 := by simp only [List.length_append]; omega
      simp only [List.cons_append, groupDigits, hlen, ih e, ne_eq, e, List.append_eq_nil_iff, false_and, not_false_eq_true,
        and_true]
      split <;> rfl

/-! ## Slots (R39, R40, R42) -/

/-- R39: the field checks of SLOT PUT. -/
theorem slotFieldsGood_iff : (∀ b : List Byte, slotFieldsGood b = true ↔
    u16 b 9 ≠ 0 ∧ u16 b 1 ≤ 7679 ∧ u16 b 3 ≤ 2159 ∧ 1 ≤ u16 b 5 ∧ u16 b 5 ≤ 3840 ∧ 1 ≤ u16 b 7 ∧ u16 b 7 ≤ 2160 ∧
    u16 b 1 + u16 b 5 ≤ 7680 ∧ u16 b 3 + u16 b 7 ≤ 2160 ∧ 1 ≤ u16 b 15 ∧ u16 b 11 + u16 b 15 ≤ u16 b 5 ∧
    u16 b 13 < u16 b 7 ∧ u16 b 26 < u16 b 5 ∧ u16 b 28 < u16 b 7 ∧ u8 b 17 ≤ 2 ∧ u8 b 18 ≤ 3 ∧ u8 b 25 ≤ 1 ∧ u8 b 30 ≤ 1 ∧
    (∀ i, i = 31 ∨ i = 34 ∨ i = 37 →
      ((u8 b i = 0 ∧ u8 b (i + 1) = 0) ∨ (u8 b i = 1 ∧ 1 ≤ u8 b (i + 1) ∧ u8 b (i + 1) ≤ 7) ∨
        (u8 b i = 2 ∧ 1 ≤ u8 b (i + 1) ∧ u8 b (i + 1) ≤ 63)) ∧ u8 b (i + 2) ≤ 1) ∧
    u8 b 40 ≤ 2 ∧ u8 b 44 ≤ 7 ∧ u16 b 45 ≠ 0) := by
  intro b
  simp only [slotFieldsGood, slotPlaceGood, slotFieldGood, treatmentGood, Bool.and_eq_true, decide_eq_true_eq,
    forall_eq_or_imp, forall_eq]
  constructor <;> intro h <;> repeat' apply And.intro
  all_goals omega

/-- R37, R38: the treatment read at an offset. -/
theorem readTreatment_fields (b : List Byte) (i : Nat) :
    (u8 b i = 0 → (readTreatment b i).action = .keep) ∧ (u8 b i = 1 → (readTreatment b i).action = .dim (u8 b (i + 1))) ∧
      (u8 b i = 2 → 1 ≤ u8 b (i + 1) → u8 b (i + 1) ≤ 63 →
        ∃ k : Fin 63, k.val + 1 = u8 b (i + 1) ∧ (readTreatment b i).action = .cover k) ∧
      (readTreatment b i).hide = decide (u8 b (i + 2) = 1) := by
  refine ⟨fun h => by simp [readTreatment, h], fun h => by simp [readTreatment, h],
    fun h h1 h2 => ⟨Fin.ofNat 63 (u8 b (i + 1) - 1), ?_, by simp [readTreatment, h]⟩, rfl⟩
  rw [val_finOfNat (by omega)]
  omega

/-- R38, R39: a treatment that passes the checks is written back as it was read. -/
theorem treatmentBody_readTreatment (b : List Byte) (i : Nat) (h : ((u8 b i = 0 ∧ u8 b (i + 1) = 0) ∨ (u8 b i = 1 ∧
    1 ≤ u8 b (i + 1) ∧ u8 b (i + 1) ≤ 7) ∨
        (u8 b i = 2 ∧ 1 ≤ u8 b (i + 1) ∧ u8 b (i + 1) ≤ 63)) ∧ u8 b (i + 2) ≤ 1) : treatmentBody (readTreatment b i) =
            [b.getD i 0, b.getD (i+1) 0, b.getD (i+2) 0] := by
  have e : putFlag (u8 b (i+2) == 1) = [b.getD (i+2) 0] := by
    rw [← put8_u8]
    have : u8 b (i+2) = 0 ∨ u8 b (i+2) = 1 := by omega
    rcases this with h | h <;> rw [h] <;> rfl
  unfold treatmentBody readTreatment
  simp only [e]
  rcases h.1 with h | h | h
  · rw [if_pos h.1]; simp only; rw [← h.1]; conv_lhs => rw [show put8 (u8 b i) ++ put8 (u8 b i) =
      put8 (u8 b i) ++ put8 (u8 b (i+1)) by rw [h.1, h.2]]
    rw [put8_u8, put8_u8]; rfl
  · rw [if_neg (by omega), if_pos h.1]; simp only; rw [← h.1, put8_u8, put8_u8]; rfl
  · rw [if_neg (by omega), if_neg (by omega)]; simp only
    rw [val_finOfNat (by omega), show u8 b (i+1) - 1 + 1 = u8 b (i+1) by omega, ← h.1, put8_u8, put8_u8]; rfl

/-- R42: a record that passes the checks is written back as it was read. -/
theorem slotBody_readSlot (b : List Byte) (h : b.length = 47) (g : slotFieldsGood b = true) :
    slotBody (u8 b 0) (readSlot b) = b := by
  have good := (slotFieldsGood_iff b).mp g
  simp only [forall_eq_or_imp, forall_eq] at good
  have align : u8 b 17 ≤ 2 := by omega
  have watch : u8 b 40 ≤ 2 := by omega
  have a1 : put8 (readSlot b).align.code = [b.getD 17 0] := by
    rw [← put8_u8]; congr 1; simp only [readSlot]; interval_cases u8 b 17 <;> rfl
  have a2 : put8 (readSlot b).glyphSet.val = [b.getD 18 0] := by
    rw [← put8_u8]; congr 1; exact val_finOfNat (by omega)
  have a3 : putFlag (readSlot b).paperClear = [b.getD 25 0] := by
    rw [← put8_u8]; unfold putFlag; congr 1; exact toNat_eq_one (by omega)
  have a4 : put8 (if (readSlot b).policy = .trimThenDash then 0 else 1) = [b.getD 30 0] := by
    rw [← put8_u8]
    have : u8 b 30 = 0 ∨ u8 b 30 = 1 := by omega
    simp only [readSlot]
    rcases this with h | h <;> simp [h]
  have a5 : put8 (readSlot b).watchMode.code = [b.getD 40 0] := by
    rw [← put8_u8]; congr 1; simp only [readSlot]; interval_cases u8 b 40 <;> rfl
  have a6 : put8 (readSlot b).tolerance.val = [b.getD 44 0] := by
    rw [← put8_u8]; congr 1; exact val_finOfNat (by omega)
  have b1 := treatmentBody_readTreatment b 31 (by omega)
  have b2 := treatmentBody_readTreatment b 34 (by omega)
  have b3 := treatmentBody_readTreatment b 37 (by omega)
  unfold slotBody
  rw [a1, a2, a3, a4, a5, a6]
  simp only [readSlot] at *
  rw [b1, b2, b3, put8_u8]
  simp only [put16_u16, putColour, rgb]
  conv_rhs => rw [eq_map_getD b 47 h, List.range_eq_range']
  simp only [List.range', List.map_cons, List.map_nil, List.cons_append, List.nil_append,
    List.getD_eq_getElem?_getD]

/-! ## Sets of lines, outputs and entries -/

/-- The bits of a set of lines given by a test. -/
theorem ofBoolListLE_getLsbD (f : Fin 8 → Bool) (i : Fin 8) : (BitVec.ofBoolListLE [f 0, f 1, f 2, f 3, f 4, f 5, f 6,
    f 7]).getLsbD i.val = f i := by
  have h : ∀ a b c d e x y z : Bool, let v : LineSet := BitVec.ofBoolListLE [a, b, c, d, e, x, y, z]
      v.getLsbD 0 = a ∧ v.getLsbD 1 = b ∧ v.getLsbD 2 = c ∧ v.getLsbD 3 = d ∧ v.getLsbD 4 = e ∧ v.getLsbD 5 = x ∧
          v.getLsbD 6 = y ∧ v.getLsbD 7 = z := by decide +kernel
  obtain ⟨h0, h1, h2, h3, h4, h5, h6, h7⟩ := h (f 0) (f 1) (f 2) (f 3) (f 4) (f 5) (f 6) (f 7)
  fin_cases i
  · exact h0
  · exact h1
  · exact h2
  · exact h3
  · exact h4
  · exact h5
  · exact h6
  · exact h7

/-- The set with one line. -/
theorem oneLine_getLsbD (i j : Fin 8) : (oneLine i).getLsbD j.val = decide (i = j) := by
  fin_cases i <;> fin_cases j <;> rfl

/-- Sets of lines with the same members are equal. -/
theorem lineSet_ext (a b : LineSet) (h : ∀ i : Fin 8, a.getLsbD i.val = b.getLsbD i.val) : a = b := by
  apply BitVec.eq_of_getLsbD_eq
  intro i hi; exact h ⟨i, hi⟩

/-- R69: a line holds a group. -/
theorem holdingLines_getLsbD (lines : Vector Line 8) (g : Fin 4) (i : Fin 8) : (holdingLines lines g).getLsbD i.val =
    (lines[i].inForce && lines[i].function == .groupHold && lines[i].groups.getLsbD g.val) :=
  ofBoolListLE_getLsbD (fun i => lines[i].inForce && lines[i].function == .groupHold && lines[i].groups.getLsbD g.val) i

/-- The set with one member. -/
theorem member_getLsbD (i n : Nat) (hn : n < 32) : (member i).getLsbD n = decide (i = n) := by
  simp only [member, BitVec.getLsbD_ofNat, hn, decide_true, Bool.true_and, Nat.testBit_two_pow]

/-- The members of a set of groups or outputs given by a test. -/
theorem fourWord_getLsbD (test : Fin 4 → Bool) (i : Nat) :
    (fourWord test).getLsbD i = true ↔ ∃ k : Fin 4, k.val = i ∧ test k = true := by
  have bits : ∀ (b0 b1 b2 b3 : Bool) (j : Fin 32),
      (BitVec.ofNat 32 (b0.toNat + 2 * b1.toNat + 4 * b2.toNat + 8 * b3.toNat)).getLsbD j.val =
        [b0, b1, b2, b3].getD j.val false := by decide +kernel
  by_cases h : i < 32
  · rw [fourWord, bits (test 0) (test 1) (test 2) (test 3) ⟨i, h⟩]
    rcases i with _ | _ | _ | _ | i <;> simp [Fin.exists_fin_succ]
  · rw [BitVec.getLsbD_of_ge _ _ (by omega)]
    simp
    omega

end Sys2Proof.Machine
end

