-- ==== Sys2Proof/Laws/Drawing.lean ====
section
/-! SUPPORT. What the drawing operations give: the READY art they read, the value of each colour component, the pixel of a card
and of a glyph sequence. -/

namespace Sys2Proof.Machine

/-! ## READY art (R179) -/

/-- R179: the READY entry at a place. -/
theorem readyEntry_eq_some {art : Art} {place : Nat} {e : ArtEntry} :
    readyEntry art place = some e ↔ Table.find? art place = some e ∧ e.ready = true := by
  unfold readyEntry
  cases Table.find? art place with
  | none => simp
  | some f =>
    dsimp only
    split
    · rename_i h
      constructor
      · rintro ⟨⟩
        exact ⟨rfl, h⟩
      · rintro ⟨⟨⟩, -⟩
        rfl
    · rename_i h
      constructor
      · rintro ⟨⟩
      · rintro ⟨⟨⟩, h1⟩
        exact absurd h1 h

/-- R46: the card that k stands for is card k + 1 of the store, while it is READY. -/
theorem readyCard_eq_some {art : Art} {k : Fin 63} {w h : Nat} {fill : Colour} {pixels : List Byte} :
    readyCard art k = some (w, h, fill, pixels) ↔
      Table.find? art (k.val + 4) = some { ready := true, shape := .card w h fill, content := pixels } := by
  have key := @readyEntry_eq_some art (cardPlace k)
  unfold readyCard
  constructor
  · intro hc
    split at hc
    · rename_i hr
      cases hc
      have := key.mp hr
      obtain ⟨h1, h2⟩ := this
      dsimp only at h2
      subst h2
      exact h1
    · cases hc
  · intro hf
    rw [key.mpr ⟨hf, rfl⟩]

/-- R25: the glyph set of a number, while it is READY. -/
theorem readyGlyphSet_eq_some {art : Art} {n : Fin 4} {h : Nat} {advances : List Nat} {image : List Byte} :
    readyGlyphSet art n = some (h, advances, image) ↔
      Table.find? art n.val = some { ready := true, shape := .glyphSet h advances, content := image } := by
  have key := @readyEntry_eq_some art (glyphPlace n)
  unfold readyGlyphSet
  constructor
  · intro hc
    split at hc
    · rename_i hr
      cases hc
      obtain ⟨h1, h2⟩ := key.mp hr
      dsimp only at h2
      subst h2
      exact h1
    · cases hc
  · intro hf
    rw [key.mpr ⟨hf, rfl⟩]

/-! ## Colours (R33, R46, R50, R55) -/

/-- The nearest whole value of a quotient is within half of it, halves going up. -/
theorem nearest_bounds (n : Nat) {d : Nat} (h : 0 < d) :
    2 * n < 2 * d * nearest n d + d ∧ 2 * d * nearest n d ≤ 2 * n + d := by
  have h1 := Nat.div_add_mod (2 * n + d) (2 * d)
  have h2 := Nat.mod_lt (2 * n + d) (show 0 < 2 * d by omega)
  unfold nearest
  constructor <;> omega

/-- The nearest whole value of a whole quotient is that quotient. -/
theorem nearest_mul (v : Nat) {d : Nat} (h : 0 < d) : nearest (v * d) d = v := by
  obtain ⟨h1, h2⟩ := nearest_bounds (v * d) h
  have e : 2 * (v * d) = 2 * d * v := by ring
  rw [e] at h1 h2
  have a : 2 * d * v < 2 * d * (nearest (v * d) d + 1) := by rw [Nat.mul_add]; omega
  have b : 2 * d * nearest (v * d) d < 2 * d * (v + 1) := by rw [Nat.mul_add]; omega
  have := Nat.lt_of_mul_lt_mul_left a
  have := Nat.lt_of_mul_lt_mul_left b
  omega

/-- A weighted mean of two bytes, to the nearest whole value, is a byte. -/
theorem nearest_weighted_lt (p q : Byte) {a d : Nat} (hd : 0 < d) (h : a ≤ d) :
    nearest (p.toNat * (d - a) + q.toNat * a) d < 256 := by
  have hp : p.toNat * (d - a) ≤ 255 * (d - a) := Nat.mul_le_mul_right _ (by omega)
  have hq : q.toNat * a ≤ 255 * a := Nat.mul_le_mul_right _ (by omega)
  have hs : 255 * (d - a) + 255 * a = 255 * d := by rw [← Nat.mul_add]; congr 1; omega
  have hb := (nearest_bounds (p.toNat * (d - a) + q.toNat * a) hd).2
  by_contra hc
  have : 2 * d * 256 ≤ 2 * d * nearest (p.toNat * (d - a) + q.toNat * a) d := Nat.mul_le_mul_left _ (by omega)
  omega

/-- Each component of a mixed colour is worked out from that component of the two colours. -/
theorem mixColours_part (f : Nat → Nat → Nat) (p q : Colour) {part : Colour → Byte}
    (h : part = Colour.r ∨ part = Colour.g ∨ part = Colour.b) :
    part (mixColours f p q) = BitVec.ofNat 8 (f (part p).toNat (part q).toNat) := by
  rcases h with rfl | rfl | rfl <;> rfl

/-- R33, R46: a component of a blend. -/
theorem blendOver_part (under top : Colour) {a : Nat} (ha : a ≤ 255) {part : Colour → Byte}
    (h : part = Colour.r ∨ part = Colour.g ∨ part = Colour.b) :
    (part (blendOver under top a)).toNat = nearest ((part under).toNat * (255 - a) + (part top).toNat * a) 255 := by
  rw [blendOver, mixColours_part _ _ _ h, BitVec.toNat_ofNat]
  exact Nat.mod_eq_of_lt (nearest_weighted_lt _ _ (by omega) ha)

/-- R55: a component of a fade step. -/
theorem fadeColour_part {k F : Nat} (leaving entering : Colour) (hk : k ≤ F + 1) {part : Colour → Byte}
    (h : part = Colour.r ∨ part = Colour.g ∨ part = Colour.b) :
    (part (fadeColour k F leaving entering)).toNat =
      nearest ((part leaving).toNat * (F + 1 - k) + (part entering).toNat * k) (F + 1) := by
  rw [fadeColour, mixColours_part _ _ _ h, BitVec.toNat_ofNat]
  exact Nat.mod_eq_of_lt (nearest_weighted_lt _ _ (by omega) hk)

/-- R50: a component of a dimmed colour. -/
theorem dimColour_part (level : Nat) (under : Colour) {part : Colour → Byte}
    (h : part = Colour.r ∨ part = Colour.g ∨ part = Colour.b) :
    (part (dimColour level under)).toNat = (part under).toNat * (8 - level) / 8 := by
  rw [dimColour, mixColours_part _ _ _ h, BitVec.toNat_ofNat]
  have : (part under).toNat * (8 - level) ≤ 255 * 8 := Nat.mul_le_mul (by omega) (by omega)
  exact Nat.mod_eq_of_lt (by omega)

/-- R33: coverage 0 leaves the background unchanged. -/
theorem blendOver_zero (under top : Colour) : blendOver under top 0 = under := by
  have e : ∀ v : Byte, BitVec.ofNat 8 (nearest (v.toNat * 255) 255) = v := by
    intro v
    rw [nearest_mul _ (by omega)]
    exact BitVec.ofNat_toNat _ _
  cases under
  simp [blendOver, mixColours, e]

/-! ## Cards and glyph sequences (R25, R33, R46) -/

/-- R46: beyond the card the picture is unchanged. -/
theorem overCard_outside {w h : Nat} {dx dy : Int} (pixels : List Byte) (under : Colour)
    (out : dx < 0 ∨ (w : Int) ≤ dx ∨ dy < 0 ∨ (h : Int) ≤ dy) : overCard w h pixels dx dy under = under :=
  if_neg (by omega)

/-- R46: within the card its pixel, alpha, red, green and blue in that order, is put over the picture. -/
theorem overCard_inside {w h col row : Nat} (pixels : List Byte) (under : Colour) (hc : col < w) (hr : row < h) :
    overCard w h pixels col row under =
      blendOver under
        { r := pixels.getD (4 * (row * w + col) + 1) 0, g := pixels.getD (4 * (row * w + col) + 2) 0
          b := pixels.getD (4 * (row * w + col) + 3) 0 }
        (pixels.getD (4 * (row * w + col)) 0).toNat :=
  if_pos (by omega)

/-- R30: the width of a sequence made of two. -/
theorem sequenceWidth_append (advances l r : List Nat) :
    sequenceWidth advances (l ++ r) = sequenceWidth advances l + sequenceWidth advances r := by
  simp [sequenceWidth]

/-- R33: beyond the sequence there is no coverage. -/
theorem sequenceCoverage_beyond (advances : List Nat) (image : List Byte) (row : Nat) {glyphs : List Nat} {col : Nat}
    (h : sequenceWidth advances glyphs ≤ col) : sequenceCoverage advances image glyphs col row = 0 := by
  induction glyphs generalizing col with
  | nil => rfl
  | cons g rest ih =>
    have e : sequenceWidth advances (g :: rest) = advances.getD g 0 + sequenceWidth advances rest := rfl
    rw [sequenceCoverage, if_neg (by omega)]
    exact ih (by omega)

/-- R25, R33: within a glyph of the sequence the coverage is that of the glyph's own columns of the image. -/
theorem sequenceCoverage_glyph (advances : List Nat) (image : List Byte) (row : Nat) (before after : List Nat) {g within : Nat}
    (h : within < advances.getD g 0) :
    sequenceCoverage advances image (before ++ g :: after) (sequenceWidth advances before + within) row =
      (image.getD (row * advances.sum + (advances.take g).sum + within) 0).toNat := by
  induction before with
  | nil =>
    have e : sequenceWidth advances [] = 0 := rfl
    rw [e, List.nil_append, Nat.zero_add, sequenceCoverage, if_pos h, glyphColumn]
  | cons f rest ih =>
    have e : sequenceWidth advances (f :: rest) = advances.getD f 0 + sequenceWidth advances rest := rfl
    rw [e, List.cons_append, sequenceCoverage, if_neg (by omega), ← ih]
    congr 1
    omega

/-! ## The price field (R32, R33) -/

/-- R57: the outcomes that draw a field box. -/
theorem FitOutcome.draws_iff (o : FitOutcome) :
    o.draws = true ↔ o = .drawn ∨ o = .trimmed ∨ o = .dashed ∨ o = .blank := by
  cases o <;> simp [FitOutcome.draws]

/-- R32: within the field box the box is drawn; beyond it, or with an outcome that draws none, the picture is unchanged. -/
theorem drawPrice_ready {art : Art} {r : SlotRecord} {p : PriceDraw} {h : Nat} {advances : List Nat} {image : List Byte}
    (hr : readyGlyphSet art p.glyphSet = some (h, advances, image)) (x y : Nat) (under : Colour) :
    drawPrice art r (some p) x y under =
      if p.outcome.draws ∧ r.fieldX ≤ x ∧ x < r.fieldX + r.fieldW ∧ r.fieldY ≤ y ∧ y < r.fieldY + h then
        drawBox r advances image p.glyphs (x - r.fieldX) (y - r.fieldY) under
      else under := by
  simp only [drawPrice, hr]

/-- R32: beside the sequence the field box is its background. -/
theorem drawBox_beside (r : SlotRecord) (advances : List Nat) (image : List Byte) (glyphs : List Nat) {col : Nat} (row : Nat)
    (under : Colour)
    (h : col < sequenceStart r.align r.fieldW (sequenceWidth advances glyphs) ∨
      sequenceStart r.align r.fieldW (sequenceWidth advances glyphs) + sequenceWidth advances glyphs ≤ col) :
    drawBox r advances image glyphs col row under = if r.paperClear then under else r.paper := by
  unfold drawBox
  dsimp only
  split
  · rw [sequenceCoverage_beyond _ _ _ (by omega), blendOver_zero]
  · rfl

/-- R33: on a glyph of the sequence the ink is put over the background with the glyph's coverage. -/
theorem drawBox_glyph (r : SlotRecord) (advances : List Nat) (image : List Byte) (before after : List Nat) {g within : Nat}
    (row : Nat) (under : Colour) (h : within < advances.getD g 0) :
    drawBox r advances image (before ++ g :: after)
        (sequenceStart r.align r.fieldW (sequenceWidth advances (before ++ g :: after)) + sequenceWidth advances before +
          within) row under =
      blendOver (if r.paperClear then under else r.paper) r.ink
        (image.getD (row * advances.sum + (advances.take g).sum + within) 0).toNat := by
  unfold drawBox
  dsimp only
  rw [if_pos (by omega), ← sequenceCoverage_glyph advances image row before after h]
  congr 2
  omega

/-! ## The frame view (R54) -/

/-- R54: the slots of a frame view are those that are not VACANT. -/
theorem mem_frameView (s : State) (b : Bank) (n : Nat) (v : SlotView) :
    (n, v) ∈ frameView s b ↔ ∃ t, (n, t) ∈ s.slots ∧ slotView s b t = some v := by
  simp [frameView]

/-- R45: a frame view has its slots in rising number. -/
theorem rising_frameView {s : State} (h : Table.Rising s.slots) (b : Bank) : Table.Rising (frameView s b) := by
  refine List.Pairwise.filterMap _ (fun p q hpq p' hp q' hq => ?_) h
  simp only [Option.map_eq_some_iff] at hp hq
  obtain ⟨_, -, rfl⟩ := hp
  obtain ⟨_, -, rfl⟩ := hq
  exact hpq

/-- R54: a frame view holds the view of every slot. -/
theorem find?_frameView {s : State} (h : Table.Rising s.slots) (b : Bank) (n : Nat) :
    Table.find? (frameView s b) n = slotView s b (s.slot n) := by
  ext v
  rw [Table.find?_eq_some_iff (rising_frameView h b), mem_frameView, State.slot]
  constructor
  · rintro ⟨t, ht, hv⟩
    rwa [(Table.find?_eq_some_iff h).mpr ht]
  · intro hv
    cases hf : Table.find? s.slots n with
    | none => rw [hf] at hv; cases hv
    | some t => rw [hf] at hv; exact ⟨t, (Table.find?_eq_some_iff h).mp hf, hv⟩

end Sys2Proof.Machine
end

