-- ==== Sys2Proof/Laws/Effects.lean ====
section
/-! SUPPORT. What each shared operation can do, said once: margin packets and relays, slots rebound, outputs written, lines landing,
requests of schedule entries, and the blocks that a frame start leaves alone. -/

namespace Sys2Proof.Machine

/-- R154: bytes followed by their check have a right check. -/
theorem checkGood_withCheck (l : List Byte) : checkGood (withCheck l) = true := by
  have : (withCheck l).length = l.length + 2 := by simp [withCheck]
  unfold checkGood
  rw [this]
  have e : (withCheck l).take (l.length + 2 - 2) = l := by simp [withCheck]
  rw [e]; simp

/-- Section 9.1: the fields of a margin packet. -/
theorem marginPacketOf_fields (dest : Nat) (hd : dest < 256) (code : Byte) (b : List Byte) (hb : b.length ≤ 240) :
    let p := marginPacketOf dest code b
    p.length = b.length + 5 ∧ u8 p 0 = dest ∧ p.getD 1 0 = code ∧ u8 p 2 = b.length ∧ (p.drop 3).take b.length = b ∧
        checkGood p = true := by
  intro p
  have e : p = BitVec.ofNat 8 dest :: code :: BitVec.ofNat 8 b.length :: (b ++ put16 (crc16 (put8 dest ++ [code] ++ put8 b.length ++ b)).toNat) := by
    simp [p, marginPacketOf, withCheck]
  have h0 : u8 p 0 = dest := by rw [e]; simp [u8]; omega
  have h2 : u8 p 2 = b.length := by rw [e]; simp [u8]; omega
  refine ⟨by rw [e]; simp, h0, by rw [e]; rfl, h2, ?_, checkGood_withCheck _⟩
  rw [e]; simp

/-- R153: a part that reads packets considers one. -/
theorem reading_of_reads {s : State} (h : s.Reads) : (s.listening && s.margin.reading) = true := by
  obtain ⟨h1, h2, h3⟩ := h
  simp [(State.listening_iff s).mpr h1, Margin.reading, h2, h3]

/-- R165: the index names the effect that the row of the command has. -/
theorem commandEffect_eq_effectOf {c : Instr} {code b} (h : commandOf c = some (code, b)) {eff} (g : effectOf c =
    some eff) :
   (commandEffect code).getD unknown = eff := by
  cases c <;> simp only [commandOf, reduceCtorEq, Option.some.injEq, Prod.mk.injEq] at h
  case unknownCommand c b' =>
    split at h
    · simp at h
    · rename_i hc
      simp only [Option.some.injEq, Prod.mk.injEq] at h
      obtain ⟨rfl, rfl⟩ := h
      simp only [effectOf, hc, if_false] at g
      cases g
      have := commandEffect_isNone c
      simp only [hc, not_false_eq_true, decide_true, Option.isNone_iff_eq_none] at this
      rw [this]; rfl
  all_goals
    obtain ⟨rfl, rfl⟩ := h
    cases g
    rfl

/-- R156: a packet with a bad check or destination is discarded and counted. -/
theorem readWhole_bad {p : List Byte} {s : State} (h : checkGood p = false ∨ (u8 p 0 ≠ 0 ∧ relayDestination (u8 p 0) =
    false)) :
   s.readWhole p = State.raise .marginFault (addFaults 1 0)
          { s with margin := { s.margin with bad := s.margin.bad + 1, read := s.margin.read + 1 } } := by
  unfold State.readWhole State.considerPacket
  rcases h with h | ⟨h1, h2⟩
  · rw [h]; rfl
  · by_cases hg : checkGood p = true
    · rw [hg]; simp only [Bool.not_true, Bool.false_eq_true, if_false, h1, h2]; rfl
    · rw [Bool.not_eq_true] at hg; rw [hg]; rfl

/-- R157, R171, R174: a packet handed to the down queues. -/
theorem takeRelay_spec (dest : Nat) (p : List Byte) (s : State) :
   let t := State.takeRelay dest p s
   t = { s with margin := { s.margin with taken := s.margin.taken + 1 }, outputs := t.outputs, notices := t.notices } ∧
   (∀ k : Fin 4, t.outputs[k] = if s.addressedBy dest k then s.outputs[k].joinDown p else s.outputs[k]) ∧
   t.notices = (State.raiseSet .relayDrop (fourWord (fun k => decide (t.outputs[k].downDrops ≠ s.outputs[k].downDrops))) s).notices := by
  intro t
  have ho : ∀ k : Fin 4, t.outputs[k] = if s.addressedBy dest k then s.outputs[k].joinDown p else s.outputs[k] := by
    intro k
    simp [t, State.takeRelay, State.relayDown, State.addressedBy]
  refine ⟨?_, ho, ?_⟩
  · simp only [t, State.takeRelay, State.relayDown]
    rw [State.raiseSet_eq]; rfl
  · have : (fun k : Fin 4 => decide (t.outputs[k].downDrops ≠ s.outputs[k].downDrops)) =
      fun k => (s.addressedBy dest k && s.outputs[k].dropsDown) := by
      ext1 k
      rw [ho]
      split
      · rename_i h
        simp only [h, Bool.true_and, Output.joinDown, Output.dropsDown]
        split
        · rename_i h2; simp; exact h2
        · rename_i h2; simp at h2; simp; tauto
      · rename_i h; simp [h]
    rw [this]
    simp only [t, State.takeRelay, State.relayDown]
    exact State.raiseSet_notices_congr _ _ rfl

/-- R40, R41, R62: a slot bound or freed. -/
theorem rebindSlot_spec (n : Nat) (r : Option SlotRecord) (s : State) :
  let t := s.rebindSlot n r
  t = { s with slots := t.slots, notices := t.notices } ∧
        t.slot n = { record := r, counter := 0, missing := false, sample := none, fit := (s.slot n).fit } ∧
        (∀ k, k ≠ n → t.slot k = s.slot k) ∧
        t.notices =
          if (s.slot n).missing then
            (State.raise .photoWatch (fun _ => BitVec.ofNat 32 (missingCount t.slots)) s).notices
          else s.notices := by
  intro t
  have hs : t.slots = (s.putSlot n ((s.slot n).rebind r)).slots := by
    simp only [t, State.rebindSlot]; split <;> simp
  have hl : ∀ k, t.slot k = (s.putSlot n ((s.slot n).rebind r)).slot k := by
    intro k; simp only [State.slot, hs]
  refine ⟨rebindSlot_frame n r s, ?_, ?_, ?_⟩
  · rw [hl, slot_putSlot]; simp [Slot.rebind]
  · intro k hk; rw [hl, slot_putSlot, if_neg hk]
  · rw [hs]
    simp only [t, State.rebindSlot]
    split
    · exact State.raise_notices_congr _ _ rfl
    · rfl

/-- R137: an output written. -/
theorem putOutput_spec (k : Fin 4) (o : Output) (s : State) :
   let t := State.putOutput k o s
   t = { s with outputs := s.outputs.set k o, notices := (if o.link = s.outputs[k].link then s
           else State.raise .panelLink (addMembers (BitVec.ofNat 32 (2 ^ k.val))) s).notices } := by
  intro t
  simp only [t, State.putOutput]
  split
  · rfl
  · rw [State.raise_eq]
    rw [State.raise_notices_congr .panelLink _ (s := { s with outputs := s.outputs.set k o }) (t := s) rfl]
    rfl

/-- R72: a line that touches no hold changes no group. -/
theorem reline_zero (h : LineSet) (g : Group) : g.reline 0 h = g := by
  unfold Group.reline Group.relineSets Group.sourcesChanged
  have : ({ g with
      lineHold := (g.lineHold &&& ~~~(0 : LineSet)) ||| (h &&& 0)
      disregarded := g.disregarded &&& ~~~(0 : LineSet) } : Group) = g := by
    have : ∀ x : LineSet, x &&& ~~~(0:LineSet) = x := by decide +kernel
    simp only [this]
    simp
  rw [this]; simp

/-- R67, R72, R78: lines landing. -/
theorem landLines_spec (touched lines) (s : State) :
   let t := State.landLines touched lines s
   t = { s with lines := lines, groups := t.groups, notices := t.notices } ∧
   t.notices = (State.countAvail (availChanges s.items s.lines lines) s).notices := by
  intro t
  simp only [t, State.landLines]
  refine ⟨?_, State.countAvail_notices_congr _ rfl⟩
  rw [State.countAvail_eq]

/-! ## Schedule (R109, R110, R112) -/

/-- R112: the smallest distance of the days of an entry. -/
theorem foldl_min_spec (now : Nat) (e : Entry) (l : List Nat) (init : Nat) :
  let r := l.foldl (fun best d => if e.days.getLsbD d then min best (backDistance now (instant d e.time)) else best) init
  (r = init ∨ ∃ d ∈ l, e.days.getLsbD d = true ∧ r = backDistance now (instant d e.time)) ∧ r ≤ init ∧
   ∀ d ∈ l, e.days.getLsbD d = true → r ≤ backDistance now (instant d e.time) := by
  induction l generalizing init with
  | nil => simp
  | cons a l ih =>
    obtain ⟨h1, h2, h3⟩ := ih (if e.days.getLsbD a then min init (backDistance now (instant a e.time)) else init)
    simp only [List.foldl_cons]
    refine ⟨?_, ?_, ?_⟩
    · rcases h1 with h1 | ⟨d, hd, h1, h4⟩
      · rw [h1]
        split
        · rename_i ha
          rcases min_choice init (backDistance now (instant a e.time)) with hm | hm
          · exact Or.inl hm
          · exact Or.inr ⟨a, by simp, ha, hm⟩
        · exact Or.inl rfl
      · exact Or.inr ⟨d, by simp [hd], h1, h4⟩
    · refine h2.trans ?_; split
      · exact min_le_left _ _
      · exact le_rfl
    · intro d hd hb
      rcases List.mem_cons.mp hd with rfl | hd
      · refine h2.trans ?_; rw [if_pos hb]; exact min_le_right _ _
      · exact h3 d hd hb

/-- R112: the entry chosen for a group. -/
theorem chooseEntry_spec (now : Nat) (g : Fin 4) : ∀ l : List (Nat × Entry),
  (chooseEntry now g l = none → ∀ e ∈ l, e.2.groups.getLsbD g.val = false) ∧
  (∀ e, chooseEntry now g l = some e → e ∈ l ∧ e.2.groups.getLsbD g.val = true ∧ ∀ f ∈ l, f.2.groups.getLsbD g.val =
      true → e.2.distance now ≤ f.2.distance now) := by
  intro l
  induction l with
  | nil => simp [chooseEntry]
  | cons a l ih =>
    obtain ⟨i1, i2⟩ := ih
    simp only [chooseEntry]
    cases h : chooseEntry now g l with
    | none =>
      have := i1 h
      simp only
      split
      · rename_i ha
        refine ⟨by simp, ?_⟩
        intro e he
        obtain rfl := Option.some.inj he
        refine ⟨by simp, ha, ?_⟩
        intro f hf hb
        rcases List.mem_cons.mp hf with rfl | hf
        · exact le_rfl
        · rw [this f hf] at hb; simp at hb
      · rename_i ha
        refine ⟨?_, by simp⟩
        intro _ e he
        rcases List.mem_cons.mp he with rfl | he
        · simpa using ha
        · exact this e he
    | some best =>
      obtain ⟨b1, b2, b3⟩ := i2 best h
      simp only
      split
      · rename_i ha
        refine ⟨by simp, ?_⟩
        intro e he
        obtain rfl := Option.some.inj he
        refine ⟨by simp, ha.1, ?_⟩
        intro f hf hb
        rcases List.mem_cons.mp hf with rfl | hf
        · exact le_rfl
        · exact ha.2.trans (b3 f hf hb)
      · rename_i ha
        refine ⟨by simp, ?_⟩
        intro e he
        obtain rfl := Option.some.inj he
        refine ⟨by simp [b1], b2, ?_⟩
        intro f hf hb
        rcases List.mem_cons.mp hf with rfl | hf
        · have : ¬ f.2.distance now ≤ best.2.distance now := fun h => ha ⟨hb, h⟩
          omega
        · exact b3 f hf hb

/-- R88: a flip request sent to a set of groups. -/
theorem sendFlip_getElem (set b) (gs : Vector Machine.Group 4) (g : Fin 4) : (sendFlip set b gs)[g] =
    if set.getLsbD g.val then (gs[g].request b).1 else gs[g] := by
  simp [sendFlip]

/-- R109: a group that no firing entry names. -/
theorem fireEntries_none (l : List (Nat × Entry)) : ∀ (gs : Vector Machine.Group 4) (g : Fin 4), (∀ e ∈ l,
    e.2.groups.getLsbD g.val = false) → (fireEntries l gs)[g] = gs[g] := by
  induction l with
  | nil => intros; rfl
  | cons a l ih =>
    intro gs g h
    simp only [fireEntries, List.foldl_cons]
    have := ih (sendFlip a.2.groups a.2.target gs) g (fun e he => h e (by simp [he]))
    simp only [fireEntries] at this
    rw [this, sendFlip_getElem, h a (by simp)]; rfl

/-- R109, R116: a group that one firing entry names. -/
theorem fireEntries_one (l : List (Nat × Entry)) : ∀ (gs : Vector Machine.Group 4) (g : Fin 4) (e : Nat × Entry),
    e ∈ l → e.2.groups.getLsbD g.val = true →
   l.Pairwise (fun a b => ¬ (a.2.groups.getLsbD g.val = true ∧ b.2.groups.getLsbD g.val = true)) →
       (fireEntries l gs)[g] = (Group.request e.2.target gs[g]).1 := by
  induction l with
  | nil => intro gs g e he; simp at he
  | cons a l ih =>
    intro gs g e he hg hp
    rw [List.pairwise_cons] at hp
    simp only [fireEntries, List.foldl_cons]
    rcases List.mem_cons.mp he with rfl | he
    · have := fireEntries_none l (sendFlip e.2.groups e.2.target gs) g (fun f hf => by
        have := hp.1 f hf
        by_contra hc
        exact this ⟨hg, by simpa using hc⟩)
      simp only [fireEntries] at this
      rw [this, sendFlip_getElem, if_pos hg]
    · have := ih (sendFlip a.2.groups a.2.target gs) g e he hg hp.2
      simp only [fireEntries] at this
      rw [this, sendFlip_getElem, if_neg]
      intro ha
      exact hp.1 e he ⟨ha, hg⟩

/-- R110: the set of the entries that fire. -/
theorem entrySet_getLsbD (l : List (Nat × Entry)) (n : Nat) (hn : n < 32) : ∀ w : Word,
    (l.foldl (fun w e => w ||| member e.1) w).getLsbD n = (w.getLsbD n || l.any (fun e => e.1 == n)) := by
  induction l with
  | nil => simp
  | cons a l ih =>
    intro w
    rw [List.foldl_cons, ih, BitVec.getLsbD_or, member_getLsbD _ _ hn, List.any_cons]
    simp only [Bool.or_assoc]
    congr 1

/-! ## Groups (R84 to R87, R98) -/

/-- R84 to R87: a flip request changes the flip and the pending target alone. -/
theorem request_frame (b : Bank) (g : Group) :
    (Group.request b g).1 =
      { g with
        flip := (Group.request b g).1.flip
        target := (Group.request b g).1.target
        pendingTarget := (Group.request b g).1.pendingTarget
        age := (Group.request b g).1.age
        settle := (Group.request b g).1.settle } := by
  unfold Group.request Group.requestIdle Group.requestWaiting Group.requestFading
  split
  · rfl
  · split <;> split <;> rfl

/-- R98: a change of the hold sources changes the hold phase, the flip it stops and a capture not taken. -/
theorem sourcesChanged_frame (g n : Group) :
    g.sourcesChanged n =
      { n with
        phase := (g.sourcesChanged n).phase
        pendingTarget := (g.sourcesChanged n).pendingTarget
        flip := (g.sourcesChanged n).flip
        target := (g.sourcesChanged n).target
        age := (g.sourcesChanged n).age
        settle := (g.sourcesChanged n).settle
        capture := (g.sourcesChanged n).capture } := by
  unfold Group.sourcesChanged Group.gainSource Group.loseSource Group.beginHold
  repeat' split
  all_goals rfl

/-- R90 to R94: the first stage changes the flip alone. -/
theorem flipStage_frame (ready : Bool) (g : Group) :
    (g.flipStage ready).1 =
      { g with
        shown := (g.flipStage ready).1.shown
        flip := (g.flipStage ready).1.flip
        target := (g.flipStage ready).1.target
        age := (g.flipStage ready).1.age
        settle := (g.flipStage ready).1.settle
        fadeStep := (g.flipStage ready).1.fadeStep
        fadeLength := (g.flipStage ready).1.fadeLength } := by
  unfold Group.flipStage Group.waitStage Group.settleStage Group.fadeStage Group.timeout Group.abandon Group.execute
    Group.complete
  repeat' split
  all_goals rfl

/-- R100 to R104: the second stage changes the hold alone. -/
theorem holdStage_frame (live : FrameView) (g : Group) :
    g.holdStage live =
      { g with
        commandHold := (g.holdStage live).commandHold
        disregarded := (g.holdStage live).disregarded
        phase := (g.holdStage live).phase
        holdAge := (g.holdStage live).holdAge
        capture := (g.holdStage live).capture } := by
  unfold Group.holdStage Group.endByLimit Group.goLive
  repeat' split
  all_goals rfl

/-- R90, R101: a count of frames stays at 65535. -/
theorem countFrame_eq (n : Nat) : countFrame n = min 65535 (n + 1) := by
  unfold countFrame Config.frameCountTop
  split <;> omega

/-! ## The frame start (R146) -/

/-- R89 to R104: the groups' work of a frame start. -/
theorem groupsFrame_frame (s : State) :
    s.groupsFrame =
      { s with
        groups := s.groupsFrame.groups, slots := s.groupsFrame.slots, notices := s.groupsFrame.notices
        pictures := s.groupsFrame.pictures } := by
  have h : ∀ (slots : List Nat) (t : State), State.raiseFaults slots t =
      { t with notices := (State.raiseFaults slots t).notices } := by
    intro slots
    induction slots with
    | nil => intro t; rfl
    | cons n rest ih =>
      intro t
      have e : State.raiseFaults (n :: rest) t = State.raiseFaults rest (t.raise .fitFault (keepLowest n)) := rfl
      rw [e, ih, State.raise_eq]
  unfold State.groupsFrame
  rw [h, State.raiseSet_eq, State.raiseSet_eq, State.raiseSet_eq]

/-- R147: the feed's work of a frame start. -/
theorem feedFrame_frame (s : State) : s.feedFrame = { s with feed := s.feed.atFrame, notices := s.feedFrame.notices } := by
  unfold State.feedFrame
  split
  · rw [State.raise_eq]
  · rfl

/-- R146: the blocks that a frame start can change. -/
theorem takeFrame_frame (pins : FramePins) (s : State) :
    s.takeFrame pins =
      { s with
        feed := s.feed.atFrame
        outputs := (s.takeFrame pins).outputs
        lines := (s.takeFrame pins).lines
        groups := (s.takeFrame pins).groups
        slots := (s.takeFrame pins).slots
        notices := (s.takeFrame pins).notices
        pictures := (s.takeFrame pins).pictures
        frame := (s.takeFrame pins).frame } := by
  have hb : s.beforeGroups pins =
      { s with
        feed := s.feed.atFrame, outputs := (s.beforeGroups pins).outputs, notices := (s.beforeGroups pins).notices } := by
    unfold State.beforeGroups State.linkOutputs State.changeOutputs
    rw [State.raiseSet_eq, feedFrame_frame]
  have hg := groupsFrame_frame (s.beforeGroups pins)
  have ht : s.takeFrame pins =
      { (s.beforeGroups pins).groupsFrame.openFrames with
        lines := (s.takeFrame pins).lines, groups := (s.takeFrame pins).groups,
            notices := (s.takeFrame pins).notices } := by
    unfold State.takeFrame State.sampleLines State.landLines
    rw [State.countAvail_eq]
  generalize s.takeFrame pins = t at ht
  have ho : (s.beforeGroups pins).groupsFrame.openFrames =
      { (s.beforeGroups pins).groupsFrame with
        outputs := (s.beforeGroups pins).groupsFrame.openFrames.outputs
        frame := (s.beforeGroups pins).groupsFrame.openFrames.frame } := rfl
  generalize (s.beforeGroups pins).groupsFrame.openFrames = o at ht ho
  generalize (s.beforeGroups pins).groupsFrame = g at hg ho
  generalize s.beforeGroups pins = b at hb hg
  rcases s
  rcases b
  rcases g
  rcases o
  rcases t
  simp only [State.mk.injEq] at *
  simp only [ht, ho, hg, hb, and_self]

/-- R154: the check of one byte more. -/
theorem crc16_append (b : List Byte) (byte : Byte) : crc16 (b ++ [byte]) = crc16Byte (crc16 b) byte := by simp [crc16]

/-- R180: the register of the check of one byte more. -/
theorem crc32_append (b : List Byte) (byte : Byte) :
    crc32 (b ++ [byte]) ^^^ 0xFFFFFFFF#32 = crc32Byte (crc32 b ^^^ 0xFFFFFFFF#32) byte := by simp [crc32]

/-- R101, R104: when the hold limit of a group applies. -/
theorem limitApplies_iff (g : Group) :
    g.limitApplies = true ↔ g.phase = .captured ∧ g.holdLimit ≠ 0 ∧ g.holdLimit ≤ min 65535 (g.holdAge + 1) := by
  simp [Group.limitApplies, countFrame_eq]

/-- R101: a CAPTURED group to which the hold limit does not apply draws its capture. -/
theorem drawsCapture_iff (g : Group) :
    g.drawsCapture = true ↔ g.phase = .captured ∧ (g.holdLimit = 0 ∨ min 65535 (g.holdAge + 1) < g.holdLimit) := by
  have limit := limitApplies_iff g
  simp only [Group.drawsCapture, Bool.and_eq_true, beq_iff_eq, Bool.not_eq_true', Bool.eq_false_iff, ne_eq, limit]
  constructor
  · rintro ⟨captured, live⟩
    refine ⟨captured, ?_⟩
    by_contra due
    exact live ⟨captured, by omega, by omega⟩
  · rintro ⟨captured, early⟩
    exact ⟨captured, fun due => by omega⟩

/-- R117: two sets have a member in common. -/
theorem and_ne_zero_iff {w : Nat} (a b : BitVec w) : a &&& b ≠ 0 ↔ ∃ i, i < w ∧ a.getLsbD i = true ∧ b.getLsbD i = true := by
  constructor
  · intro h
    by_contra none
    apply h
    ext i hi
    simp only [BitVec.getElem_and]
    by_contra both
    apply none
    refine ⟨i, hi, ?_⟩
    simp at both
    simp [BitVec.getLsbD_eq_getElem hi, both]
  · rintro ⟨i, hi, ha, hb⟩ zero
    have bit := congrArg (fun x => x.getLsbD i) zero
    simp [ha, hb] at bit

/-- R117: when two entries conflict. -/
theorem conflicts_iff (e f : Entry) :
    e.conflicts f = true ↔
      e.time = f.time ∧ (∃ d, d < 7 ∧ e.days.getLsbD d = true ∧ f.days.getLsbD d = true) ∧
        ∃ g, g < 4 ∧ e.groups.getLsbD g = true ∧ f.groups.getLsbD g = true := by
  simp only [Entry.conflicts, Bool.and_eq_true, beq_iff_eq, bne_iff_ne, and_ne_zero_iff, and_assoc]

end Sys2Proof.Machine
end

