-- ==== Sys2Proof/Laws/Frame.lean ====
section
/-! SUPPORT. What a frame start leaves in each block (R146), said once: the feed, the outputs, the lines, the groups, the slots,
the pictures, the open frame and the notices. The blocks it leaves alone are in takeFrame_frame (Laws/Effects.lean). -/

namespace Sys2Proof.Machine

/-! ## The feed and the outputs, before the groups (R138, R147) -/

theorem beforeGroups_frame (pins : FramePins) (s : State) :
    s.beforeGroups pins =
      { s with
        feed := s.feed.atFrame, outputs := (s.beforeGroups pins).outputs, notices := (s.beforeGroups pins).notices } := by
  unfold State.beforeGroups State.linkOutputs State.changeOutputs
  rw [State.raiseSet_eq, feedFrame_frame]

/-- R138: every output has done its link work before the groups do theirs. -/
theorem beforeGroups_outputs (pins : FramePins) (s : State) (k : Fin 4) :
    (s.beforeGroups pins).outputs[k] = s.outputs[k].atFrame (pins.presence.getLsbD k.val) := by
  have h : s.feedFrame.outputs = s.outputs := by rw [feedFrame_frame]
  unfold State.beforeGroups State.linkOutputs
  rw [State.changeOutputs_outputs, h]
  exact getElem_tab _ _ _

@[simp] theorem beforeGroups_groups (pins : FramePins) (s : State) : (s.beforeGroups pins).groups = s.groups := by
  rw [beforeGroups_frame]

@[simp] theorem beforeGroups_slots (pins : FramePins) (s : State) : (s.beforeGroups pins).slots = s.slots := by
  rw [beforeGroups_frame]

@[simp] theorem beforeGroups_lines (pins : FramePins) (s : State) : (s.beforeGroups pins).lines = s.lines := by
  rw [beforeGroups_frame]

@[simp] theorem beforeGroups_items (pins : FramePins) (s : State) : (s.beforeGroups pins).items = s.items := by
  rw [beforeGroups_frame]

@[simp] theorem beforeGroups_art (pins : FramePins) (s : State) : (s.beforeGroups pins).art = s.art := by
  rw [beforeGroups_frame]

@[simp] theorem beforeGroups_feed (pins : FramePins) (s : State) : (s.beforeGroups pins).feed = s.feed.atFrame := by
  rw [beforeGroups_frame]

/-- The link work of the outputs and the feed's work change no view. -/
@[simp] theorem beforeGroups_frameView (pins : FramePins) (s : State) (b : Bank) :
    frameView (s.beforeGroups pins) b = frameView s b := by
  rw [beforeGroups_frame]
  rfl

@[simp] theorem beforeGroups_slotView (pins : FramePins) (s : State) (b : Bank) (t : Slot) :
    slotView (s.beforeGroups pins) b t = slotView s b t := by
  rw [beforeGroups_frame]
  rfl

/-- R147, R137: FEED_DARK, and PANEL_LINK with every output whose link state changes. -/
theorem beforeGroups_notices (pins : FramePins) (s : State) :
    (s.beforeGroups pins).notices =
      (State.raiseSet .panelLink
        (fourWord (fun k => (s.outputs[k].atFrame (pins.presence.getLsbD k.val)).link != s.outputs[k].link))
        s.feedFrame).notices := by
  have h : s.feedFrame.outputs = s.outputs := by rw [feedFrame_frame]
  unfold State.beforeGroups State.linkOutputs State.changeOutputs
  rw [h]
  exact State.raiseSet_notices_congr _ _ rfl

/-- R81, R138: a group is ready when each member is UP or PLAIN after its link work. -/
theorem groupReady_beforeGroups (pins : FramePins) (s : State) (g : Fin 4) :
    groupReady (s.beforeGroups pins).outputs g = true ↔
      ∀ k : Fin 4, ∀ o, o = s.outputs[k].atFrame (pins.presence.getLsbD k.val) →
        o.enabled = true → o.group = g → o.link = .up ∨ o.link = .plain := by
  have one : ∀ o : Output, (!o.memberOf g || o.ready) = true ↔
      (o.enabled = true → o.group = g → o.link = .up ∨ o.link = .plain) := by
    intro o
    cases h1 : o.enabled <;> by_cases h2 : o.group = g <;> cases h3 : o.link <;>
      simp [Output.memberOf, Output.ready, h1, h2, h3]
  simp only [groupReady, List.all_eq_true, Vector.mem_toList_iff]
  constructor
  · intro h k o ho
    have := h ((s.beforeGroups pins).outputs[k]) (Vector.getElem_mem _)
    rw [beforeGroups_outputs, ← ho] at this
    exact (one o).mp this
  · intro h o ho
    obtain ⟨j, hj, rfl⟩ := Vector.getElem_of_mem ho
    exact (one _).mpr (h ⟨j, hj⟩ _ (beforeGroups_outputs pins s ⟨j, hj⟩))

/-! ## The groups (R89 to R104, R34) -/

theorem raiseFaults_eq (slots : List Nat) (s : State) :
    State.raiseFaults slots s = { s with notices := (State.raiseFaults slots s).notices } := by
  induction slots generalizing s with
  | nil => rfl
  | cons n rest ih =>
    have e : State.raiseFaults (n :: rest) s = State.raiseFaults rest (s.raise .fitFault (keepLowest n)) := rfl
    rw [e, ih, State.raise_eq]

theorem raiseFaults_notices_congr (slots : List Nat) {s t : State} (h : s.notices = t.notices) :
    (State.raiseFaults slots s).notices = (State.raiseFaults slots t).notices := by
  induction slots generalizing s t with
  | nil => exact h
  | cons n rest ih => exact ih (State.raise_notices_congr _ _ h)

theorem groupsFrame_groups (s : State) : s.groupsFrame.groups = tab (fun g => s.groupAfter g) := by
  unfold State.groupsFrame
  rw [raiseFaults_eq, State.raiseSet_eq, State.raiseSet_eq, State.raiseSet_eq]

theorem groupsFrame_pictures (s : State) : s.groupsFrame.pictures = tab (fun g => s.pictureOf g) := by
  unfold State.groupsFrame
  rw [raiseFaults_eq, State.raiseSet_eq, State.raiseSet_eq, State.raiseSet_eq]

theorem groupsFrame_slots (s : State) :
    s.groupsFrame.slots = mapSlots (fun _ t => { t with fit := tab (fun g => s.fitAfter t g) }) s.slots := by
  unfold State.groupsFrame
  rw [raiseFaults_eq, State.raiseSet_eq, State.raiseSet_eq, State.raiseSet_eq]

/-- R34, R96, R90, R104: the notices that the groups raise. -/
theorem groupsFrame_notices (s : State) :
    s.groupsFrame.notices =
      (State.raiseFaults s.fitFaults
        (State.raiseSet .holdLimit (fourWord (fun g => (s.flipped g).1.limitApplies))
          (State.raiseSet .flipAbandoned (fourWord (fun g => (s.flipped g).2 == .abandoned))
            (State.raiseSet .flipDone (fourWord (fun g => flipDone (s.flipped g).1 (s.flipped g).2)) s)))).notices := by
  unfold State.groupsFrame
  exact raiseFaults_notices_congr _
    (State.raiseSet_notices_congr _ _ (State.raiseSet_notices_congr _ _ (State.raiseSet_notices_congr _ _ rfl)))

/-! ## The lines (R64 to R70) -/

theorem sampleLines_frame (levels : LineSet) (s : State) :
    s.sampleLines levels =
      { s with
        lines := sampledLines levels s.lines
        groups := (s.sampleLines levels).groups
        notices := (State.countAvail (availChanges s.items s.lines (sampledLines levels s.lines)) s).notices } := by
  have h := (landLines_spec (changedLines levels s.lines) (sampledLines levels s.lines) s)
  unfold State.sampleLines
  rw [h.1, h.2]

theorem sampleLines_slots (levels : LineSet) (s : State) : (s.sampleLines levels).slots = s.slots := by
  rw [sampleLines_frame]

theorem sampleLines_pictures (levels : LineSet) (s : State) : (s.sampleLines levels).pictures = s.pictures := by
  rw [sampleLines_frame]

/-- R70: the flip requests of the lines that come into force, group by group. -/
theorem foldl_lineFlip (levels : LineSet) (lines : Vector Line 8) (g : Fin 4) (l : List (Fin 8)) (groups : Vector Group 4) :
    (l.foldl (lineFlip levels lines) groups)[g] =
      ((l.filter (fun i => lines[i].flipEdge (levels.getLsbD i.val))).filter
        (fun i => lines[i].groups.getLsbD g.val)).foldl (fun x i => (Group.request lines[i].target x).1) groups[g] := by
  induction l generalizing groups with
  | nil => rfl
  | cons a l ih =>
    rw [List.foldl_cons, ih]
    by_cases h : lines[a].flipEdge (levels.getLsbD a.val) = true
    · have e : lineFlip levels lines groups a = sendFlip lines[a].groups lines[a].target groups := if_pos h
      rw [List.filter_cons_of_pos (p := fun i : Fin 8 => lines[i].flipEdge (levels.getLsbD i.val)) h, e, sendFlip_getElem]
      by_cases h2 : lines[a].groups.getLsbD g.val = true
      · rw [List.filter_cons_of_pos (p := fun i : Fin 8 => lines[i].groups.getLsbD g.val) h2, if_pos h2, List.foldl_cons]
      · rw [List.filter_cons_of_neg (p := fun i : Fin 8 => lines[i].groups.getLsbD g.val) h2, if_neg h2]
    · have e : lineFlip levels lines groups a = groups := if_neg h
      rw [List.filter_cons_of_neg (p := fun i : Fin 8 => lines[i].flipEdge (levels.getLsbD i.val)) h, e]

theorem sampleLines_groups (levels : LineSet) (s : State) (g : Fin 4) :
    (s.sampleLines levels).groups[g] =
      (((List.finRange 8).filter (fun i => s.lines[i].flipEdge (levels.getLsbD i.val))).filter
        (fun i => s.lines[i].groups.getLsbD g.val)).foldl (fun x i => (Group.request s.lines[i].target x).1)
        (s.groups[g].reline (changedLines levels s.lines) (holdingLines (sampledLines levels s.lines) g)) := by
  have e : ∀ x : State, ({ x with groups := (List.finRange 8).foldl (lineFlip levels s.lines) x.groups } : State).groups =
      (List.finRange 8).foldl (lineFlip levels s.lines) x.groups := fun _ => rfl
  unfold State.sampleLines
  rw [e, foldl_lineFlip, State.landLines_groups]
  congr 1
  exact getElem_tab _ _ _

/-- R65: the lines that change. -/
theorem changedLines_getLsbD (levels : LineSet) (lines : Vector Line 8) (i : Fin 8) :
    (changedLines levels lines).getLsbD i.val = lines[i].changes (levels.getLsbD i.val) :=
  ofBoolListLE_getLsbD (fun i => lines[i].changes (levels.getLsbD i.val)) i

/-! ## The whole frame start -/

/-- R125, R172: beginning the output frames leaves the other blocks alone. -/
theorem openFrames_frame (s : State) :
    s.openFrames = { s with outputs := s.openFrames.outputs, frame := s.openFrames.frame } := rfl

theorem openFrames_lines (s : State) : s.openFrames.lines = s.lines := rfl

theorem openFrames_items (s : State) : s.openFrames.items = s.items := rfl

theorem openFrames_groups (s : State) : s.openFrames.groups = s.groups := rfl

theorem openFrames_slots (s : State) : s.openFrames.slots = s.slots := rfl

theorem openFrames_pictures (s : State) : s.openFrames.pictures = s.pictures := rfl

theorem openFrames_notices (s : State) : s.openFrames.notices = s.notices := rfl

theorem openFrames_outputs (s : State) : s.openFrames.outputs = tab (fun k => s.outputs[k].afterPlacing) := rfl

theorem openFrames_opened (s : State) :
    s.openFrames.frame =
      some { canvas := s.feed.canvas, art := s.art, outputs := tab (fun k => s.outputs[k].frame) } := rfl

theorem takeFrame_eq (pins : FramePins) (s : State) :
    s.takeFrame pins = (s.beforeGroups pins).groupsFrame.openFrames.sampleLines pins.lines := rfl

theorem takeFrame_lines (pins : FramePins) (s : State) (i : Fin 8) :
    (s.takeFrame pins).lines[i] = s.lines[i].sampled (pins.lines.getLsbD i.val) := by
  have h : (s.beforeGroups pins).groupsFrame.openFrames.lines = s.lines := by
    rw [openFrames_lines, groupsFrame_frame]
    exact beforeGroups_lines pins s
  rw [takeFrame_eq, sampleLines_frame, h]
  exact getElem_tab _ _ _

theorem takeFrame_outputs (pins : FramePins) (s : State) (k : Fin 4) :
    (s.takeFrame pins).outputs[k] = (s.outputs[k].atFrame (pins.presence.getLsbD k.val)).afterPlacing := by
  have h : (s.beforeGroups pins).groupsFrame.outputs = (s.beforeGroups pins).outputs := by rw [groupsFrame_frame]
  rw [takeFrame_eq, sampleLines_frame, openFrames_outputs, h, ← beforeGroups_outputs]
  exact getElem_tab _ _ _

theorem takeFrame_openFrame (pins : FramePins) (s : State) :
    (s.takeFrame pins).frame =
      some
        { canvas := s.feed.atFrame.canvas
          art := s.art
          outputs := tab (fun k => (s.outputs[k].atFrame (pins.presence.getLsbD k.val)).frame) } := by
  have h1 : (s.beforeGroups pins).groupsFrame.outputs = (s.beforeGroups pins).outputs := by rw [groupsFrame_frame]
  have h2 : (s.beforeGroups pins).groupsFrame.feed = s.feed.atFrame := by
    rw [groupsFrame_frame]
    exact beforeGroups_feed pins s
  have h3 : (s.beforeGroups pins).groupsFrame.art = s.art := by
    rw [groupsFrame_frame]
    exact beforeGroups_art pins s
  rw [takeFrame_eq, sampleLines_frame, openFrames_opened, h1, h2, h3]
  simp only [beforeGroups_outputs]

theorem takeFrame_groups (pins : FramePins) (s : State) (g : Fin 4) :
    (s.takeFrame pins).groups[g] =
      (((List.finRange 8).filter (fun i => s.lines[i].flipEdge (pins.lines.getLsbD i.val))).filter
        (fun i => s.lines[i].groups.getLsbD g.val)).foldl (fun x i => (Group.request s.lines[i].target x).1)
        (((s.beforeGroups pins).groupAfter g).reline (changedLines pins.lines s.lines)
          (holdingLines (sampledLines pins.lines s.lines) g)) := by
  have h1 : (s.beforeGroups pins).groupsFrame.openFrames.lines = s.lines := by
    rw [openFrames_lines, groupsFrame_frame]
    exact beforeGroups_lines pins s
  have h2 : (s.beforeGroups pins).groupsFrame.openFrames.groups[g] = (s.beforeGroups pins).groupAfter g := by
    rw [openFrames_groups, groupsFrame_groups]
    exact getElem_tab _ _ _
  rw [takeFrame_eq, sampleLines_groups, h1, h2]

theorem takeFrame_pictures (pins : FramePins) (s : State) (g : Fin 4) :
    (s.takeFrame pins).pictures[g] = (s.beforeGroups pins).pictureOf g := by
  rw [takeFrame_eq, sampleLines_pictures, openFrames_pictures, groupsFrame_pictures]
  exact getElem_tab _ _ _

theorem takeFrame_slots (pins : FramePins) (s : State) :
    (s.takeFrame pins).slots =
      mapSlots (fun _ t => { t with fit := tab (fun g => (s.beforeGroups pins).fitAfter t g) }) s.slots := by
  rw [takeFrame_eq, sampleLines_slots, openFrames_slots, groupsFrame_slots, beforeGroups_slots]

/-- R68, R78: the notices of the groups, then the items whose merged sold-out changes with the lines. -/
theorem takeFrame_notices (pins : FramePins) (s : State) :
    (s.takeFrame pins).notices =
      (State.countAvail (availChanges s.items s.lines (sampledLines pins.lines s.lines))
        (s.beforeGroups pins).groupsFrame).notices := by
  have h1 : (s.beforeGroups pins).groupsFrame.openFrames.lines = s.lines := by
    rw [openFrames_lines, groupsFrame_frame]
    exact beforeGroups_lines pins s
  have h2 : (s.beforeGroups pins).groupsFrame.openFrames.items = s.items := by
    rw [openFrames_items, groupsFrame_frame]
    exact beforeGroups_items pins s
  rw [takeFrame_eq, sampleLines_frame, h1, h2]
  exact State.countAvail_notices_congr _ (openFrames_notices _)

/-- R164: a frame start while the reset pin is not asserted. -/
theorem exec_frameStart {pins : FramePins} {s : State} (h : s.resetPin = false) :
    exec (.frameStart pins) s = .next (s.takeFrame pins) := by
  have e : exec (.frameStart pins) s = .next (s.frameIf true pins) := rfl
  rw [e, State.frameIf, h]
  rfl

/-- R164: a frame start that the table names by what comes about at it. -/
theorem frameIf_due {due : Bool} {pins : FramePins} {s : State} (h : s.resetPin = false) :
    s.frameIf due pins = if due then s.takeFrame pins else s := by
  cases due <;> simp [State.frameIf, h]

/-! ## The feed's events (R144 to R146) -/

/-- R61: every slot loses its sample and keeps the rest. -/
theorem find?_dropSamples {slots : List (Nat × Slot)} (h : Table.Rising slots) (n : Nat) :
    (Table.find? (dropSamples slots) n).getD Slot.reset =
      { (Table.find? slots n).getD Slot.reset with sample := none } := by
  rw [dropSamples, find?_mapSlots h (fun _ t => { t with sample := none }) (fun _ => rfl)]

/-- R144: what a lock puts into FEED_CHANGE. -/
theorem lockMembers_getLsbD {f : Feed} (h : f.state = .training ∨ f.state = .coasting) (g : Geometry) (period i : Nat) :
    (lockMembers f g period).getLsbD i = true ↔
      (i = 0 ∧ f.state = .training) ∨ (i = 1 ∧ f.state = .coasting) ∨ (i = 2 ∧ f.geometry ≠ some g) ∨
        (i = 3 ∧ intervalsAgree f.period period = false) := by
  by_cases hi : i < 32
  · rcases h with h | h <;> by_cases a : f.geometry = some g <;> cases b : intervalsAgree f.period period <;>
      simp only [lockMembers, h, a, b] <;> interval_cases i <;> simp [a]
  · rw [BitVec.getLsbD_of_ge _ _ (by omega)]
    simp
    omega

/-- R145, R146: the feed as it leaves LOCKED, before any timed frame start. -/
theorem enterCoasting_eq (s : State) :
    s.enterCoasting =
      { s with
        feed := { s.feed with state := .coasting, lost := true, coast := 0, training := .empty, completes := false }
        slots := dropSamples s.slots } := rfl

/-- R146, R147: the timed frame start of that moment counts one coasted frame. -/
theorem enterCoasting_atFrame {s : State} (h : 1 ≤ s.feed.coastLimit) :
    s.enterCoasting.feed.atFrame =
      { s.feed with state := .coasting, lost := true, coast := 1, training := .empty, completes := false
                    frameNumber := s.feed.frameNumber + 1 } := by
  rw [enterCoasting_eq]
  simp [Feed.atFrame, Feed.coastEnds]
  omega

end Sys2Proof.Machine
end

