-- ==== Sys2Proof/Tests/Slice0.lean ====
section
/-! SUPPORT. Tests: an ill-formed term for each check of WellFormed, the worked examples of the spec, and for each statement with
hypotheses a state and operands that meet them, at the ends of the ranges where it has ranges. -/

namespace Sys2Proof.Tests

open Sys2Proof.Machine

set_option Elab.async false

/-! ## Ill-formed terms -/

theorem test_illFormed_body : (Instr.itemPut (List.replicate 241 0)).wf = false := by decide +kernel

theorem test_illFormed_unknownCommand_known : (Instr.unknownCommand 0x10 []).wf = false := by decide +kernel

theorem test_illFormed_unknownCommand_body : (Instr.unknownCommand 0x02 (List.replicate 241 0)).wf = false := by
  decide +kernel

theorem test_illFormed_marginPacket_empty : (Instr.marginPacket []).wf = false := by decide +kernel

theorem test_illFormed_marginPacket_long : (Instr.marginPacket [0, 0x90, 0, 1, 2, 3]).wf = false := by decide +kernel

theorem test_illFormed_inputFrame_rows :
    (Instr.inputFrameStart ⟨1, 1, 16666667, [[⟨0, 0, 0⟩], [⟨0, 0, 0⟩]], ⟨0, 0⟩, false⟩).wf = false := by decide +kernel

theorem test_illFormed_inputFrame_width : (Instr.inputFrameStart ⟨2, 1, 16666667, [[⟨0, 0, 0⟩]], ⟨0, 0⟩, false⟩).wf = false := by
  decide +kernel

theorem test_illFormed_abilityWord : (Instr.abilityWord 0 [0, 0, 0, 0, 0, 0, 0]).wf = false := by decide +kernel

theorem test_illFormed_panelPacket : (Instr.panelPacket 0 [1, 1, 2, 3]).wf = false := by decide +kernel

theorem test_illFormed_panelPacket_short : (Instr.panelPacket 0 [1]).wf = false := by decide +kernel

theorem test_illFormed_unknownUnit : (Instr.unknownUnit 0 2).wf = false := by decide +kernel

/-! ## Small states -/

/-- A part that is LOCKED and otherwise as after a full reset. -/
def locked : State :=
  { State.reset with
    feed :=
      { Feed.reset with
        state := .locked, signal := true, geometry := some ⟨320, 240⟩, period := 20000000, markerSeen := true } }

/-- Bytes written as numbers. -/
def bytes (l : List Nat) : List Byte := l.map (BitVec.ofNat 8)

/-- The state after a command or event; the state itself if there is none. -/
def after (c : Instr) (s : State) : State := (nextState? (exec c s)).getD s

/-- The reply that a command leaves last in the queue. -/
def replyTo (c : Instr) (s : State) : Option (ResultCode × List Byte) :=
  (after c s).margin.replies.getLast?.map (fun r => (r.result, r.body))

/-- A plain item with price A 450 and price B absent. -/
def plainItem : Item :=
  { priceA := some 450, priceB := none, format := 0, stockClass := some 2, badge := none, soldOut := false, localOnly := false,
    notify := true }

/-- Items 1 to n. -/
def stocked (n : Nat) : State := { locked with items := (List.range n).map (fun k => (k + 1, plainItem)) }

theorem locked_takes : locked.Takes := ⟨⟨rfl, rfl⟩, by decide⟩

theorem locked_reads : locked.Reads := ⟨⟨rfl, rfl⟩, rfl, by decide⟩

theorem stocked_takes (n : Nat) : (stocked n).Takes := ⟨⟨rfl, rfl⟩, locked_takes.2⟩

theorem artOk_nil : ArtOk [] := ⟨by decide, by simp, by simp, by decide⟩

/-! ## The step, resets and the gate before every command -/

theorem test_step_takes_the_front :
    (nextState? (step { locked with pending := [.feedGet [], .clockGet []] })).map (fun t => (t.pending, t.margin.replies.length)) =
      some ([.clockGet []], 1) := by decide +kernel

theorem witness_StepRunsFront : locked.pending = [] := rfl

theorem witness_FullResetsComplete :
    locked.Takes ∧ locked.resetPin = false ∧ (after .resetPinAsserted locked).resetPin = true ∧ ([] : List Byte) = [] ∧
      bytes [0] ≠ [] := ⟨locked_takes, rfl, rfl, rfl, by decide⟩

theorem test_restart : after (.restart []) locked = State.afterReset [] true := by decide +kernel

theorem test_restart_badLength : replyTo (.restart (bytes [0])) locked = some (.badLength, []) := by decide +kernel

/-- A part whose reset pin is asserted, the signal found. -/
def heldPart : State := after .signalFound (after .resetPinAsserted locked)

theorem witness_ResetPinHolds :
    heldPart.resetPin = true ∧ HeldAtReset heldPart ∧ Instr.powerUp ≠ .resetPinAsserted ∧
      Instr.secondTick ≠ .resetPinAsserted ∧ Instr.secondTick ≠ .resetPinReleased ∧ Instr.secondTick ≠ .powerUp ∧
      Instr.secondTick ≠ .signalFound ∧ (∀ cut, Instr.secondTick ≠ .signalLost cut) :=
  ⟨by decide +kernel, fun _ => by decide +kernel, by decide, by decide, by decide, by decide, by decide, by decide⟩

theorem test_powerUp_held : after .powerUp heldPart = heldPart := by decide +kernel

theorem test_resetPinReleased : (after .resetPinReleased heldPart).feed.state = .training := by decide +kernel

theorem witness_NothingTakenUnlessLocked :
    ¬ State.reset.Locked ∧ (commandOf (.feedGet [])).isSome = true ∧ ¬ (after (.missingFrame ⟨0, 0⟩) locked).Locked := by
  refine ⟨?_, rfl, ?_⟩ <;> rintro ⟨_, h⟩ <;> exact absurd h (by decide +kernel)

/-- A LOCKED part with n replies waiting. -/
def busy (n : Nat) : State :=
  { locked with margin := { locked.margin with replies := List.replicate n { code := 0x12, result := .done, body := [] } } }

theorem witness_FullQueueTurnsAway :
    commandOf (.restart []) = some (0x01, []) ∧ (busy 32).Locked ∧ 32 ≤ (busy 32).margin.replies.length ∧
      commandOf (.unknownCommand 0x02 []) = some (0x02, []) := by
  refine ⟨rfl, ⟨rfl, rfl⟩, by decide +kernel, by decide⟩

theorem witness_EveryTakenCommandAnswered :
    (0x02 : Byte) ∉ commandCodes ∧ (0xFF : Byte) ∉ commandCodes ∧ (busy 31).Takes ∧ ArtOk (busy 31).art ∧
      commandOf (.restart (bytes [0])) = some (0x01, bytes [0]) ∧ ¬ ((0x01 : Byte) = 0x01 ∧ bytes [0] = []) :=
  ⟨by decide, by decide, ⟨⟨rfl, rfl⟩, by decide +kernel⟩, artOk_nil, rfl, by decide⟩

theorem witness_RefusalChangesNothing :
    ∃ t, commandOf (.itemGet (bytes [0, 9])) = some (0x12, bytes [0, 9]) ∧ locked.Takes ∧
      exec (.itemGet (bytes [0, 9])) locked = .next t ∧
      t.margin.replies = locked.margin.replies ++ [{ code := 0x12, result := .noEntry, body := [] }] ∧
      ResultCode.noEntry ≠ .done ∧ ResultCode.noEntry ≠ .badCheck :=
  ⟨_, rfl, locked_takes, rfl, by decide +kernel, by decide, by decide⟩

/-! ## Margin packets -/

theorem test_crc16 : crc16 (bytes [0x31, 0x32, 0x33, 0x34, 0x35, 0x36, 0x37, 0x38, 0x39]) = 0x29B1 := by decide +kernel

theorem witness_GoodPacketIsItsCommand :
    commandOf (.artWrite (List.replicate 240 0)) = some (0xA1, List.replicate 240 0) ∧
      (List.replicate 240 (0 : Byte)).length ≤ 240 ∧ commandOf (.status []) = some (0x90, []) ∧
      State.Reads { locked with margin := { locked.margin with read := 7 } } :=
  ⟨rfl, by decide +kernel, rfl, ⟨rfl, rfl⟩, rfl, by decide⟩

/-- The counters of the margin channel, and what stops its reading. -/
def counters (s : State) : Nat × Nat × Nat × Bool × Nat :=
  (s.margin.taken.toNat, s.margin.bad.toNat, s.margin.turnedAway.toNat, s.margin.stopped, s.margin.read)

theorem test_marginPacket_taken : counters (after (.marginPacket (marginPacketOf 0 0x90 [])) locked) = (1, 0, 0, false, 1) := by
  decide +kernel

theorem test_marginPacket_ninth :
    counters (after (.marginPacket (marginPacketOf 0 0x90 [])) { locked with margin := { locked.margin with read := 8 } }) =
      (0, 0, 0, false, 8) := by decide +kernel

theorem witness_MarginReading_end :
    State.Locked { locked with margin := { locked.margin with stopped := true } } ∧
      State.Locked { locked with margin := { locked.margin with read := 8 } } := ⟨⟨rfl, rfl⟩, ⟨rfl, rfl⟩⟩

theorem witness_MarginReading_filler :
    locked.Reads ∧ 1 ≤ (bytes [255]).length ∧ u8 (bytes [255]) 0 = 255 := ⟨locked_reads, by decide +kernel⟩

theorem witness_MarginReading_badCheck :
    ∀ b ∈ [bytes [0, 0x90, 0, 0, 0], bytes [254, 0, 1, 0, 0, 0]],
      b.length = u8 b 2 + 5 ∧ u8 b 2 ≤ 240 ∧ u8 b 0 ≠ 255 ∧ checkGood b = false := by decide +kernel

theorem witness_MarginReading_badDestination :
    ∀ d ∈ [5, 14, 16, 254], ∀ b ∈ [marginPacketOf d 0x90 []],
      b.length = u8 b 2 + 5 ∧ u8 b 2 ≤ 240 ∧ checkGood b = true ∧
        ((5 ≤ u8 b 0 ∧ u8 b 0 ≤ 14) ∨ (16 ≤ u8 b 0 ∧ u8 b 0 ≤ 254)) := by decide +kernel

theorem witness_MarginReading_oversize :
    ∀ b ∈ [bytes [0, 0, 241], bytes [254, 0, 255]], 3 ≤ b.length ∧ 240 < u8 b 2 ∧ u8 b 0 ≠ 255 := by decide +kernel

theorem witness_MarginReading_cutShort :
    ∀ b ∈ [bytes [0], bytes [0, 0x90], bytes [0, 0x90, 0], bytes [0, 0x90, 0, 1]],
      1 ≤ b.length ∧ (b.length < 3 ∨ (u8 b 2 ≤ 240 ∧ b.length < u8 b 2 + 5)) ∧ u8 b 0 ≠ 255 := by decide +kernel

/-- A LOCKED part with output 0 UP and output 1 UP with a full down queue. -/
def relaying : State :=
  { locked with
    outputs :=
      #v[{ Output.reset 0 with link := .up, matched := some ⟨1920, 1080, 60, true⟩ },
        { Output.reset 1 with link := .up, matched := some ⟨1920, 1080, 60, true⟩, down := List.replicate 8 [] },
        Output.reset 2, Output.reset 3] }

theorem witness_RelayPacketJoinsDownQueues :
    relaying.Reads ∧ (∀ d ∈ [1, 4, 15], (1 ≤ d ∧ d ≤ 4) ∨ d = 15) ∧ ([] : List Byte).length ≤ 240 ∧
      relaying.outputs[0].link = .up ∧ relaying.outputs[0].down.length < 8 ∧
      ¬ (relaying.outputs[1].link = .up ∧ relaying.outputs[1].down.length < 8) ∧ relaying.outputs[2].link ≠ .up :=
  ⟨⟨⟨rfl, rfl⟩, rfl, by decide⟩, by decide, by decide, by decide +kernel, by decide +kernel, by decide +kernel,
    by decide +kernel⟩

theorem test_relay_to_every_UP_output :
    ((after (.marginPacket (marginPacketOf 15 7 [])) relaying).outputs.map
      (fun o => (o.down.length, o.downDrops.toNat))).toList = [(1, 0), (8, 1), (0, 0), (0, 0)] := by decide +kernel

/-! ## Items and prices -/

/-- An ITEM PUT body. -/
def itemBytes (code format cls badge flags : Nat) : List Byte := put16 code ++ bytes [1, 2, 3, 4, 5, 6, 7, 8, format, cls, badge, flags]

theorem witness_ItemPutWrites_badField :
    ∀ b ∈ [itemBytes 0 0 0 0 0, itemBytes 1 8 0 0 0, itemBytes 1 0 8 0 0, itemBytes 1 0 254 0 0, itemBytes 1 0 0 64 0,
        itemBytes 1 0 0 0 32],
      (b.length = 14 ∧
        (u16 b 0 = 0 ∨ 8 ≤ u8 b 10 ∨ (8 ≤ u8 b 11 ∧ u8 b 11 ≤ 0xFE) ∨ 64 ≤ u8 b 12 ∨ 32 ≤ u8 b 13)) ∧
        replyTo (.itemPut b) locked = some (.badField, []) := by decide +kernel

theorem witness_ItemPutWrites :
    ∀ b ∈ [itemBytes 1 0 0 0 0, itemBytes 65535 7 255 63 31],
      (b.length = 14 ∧ u16 b 0 ≠ 0 ∧ u8 b 10 < 8 ∧ (u8 b 11 < 8 ∨ u8 b 11 = 255) ∧ u8 b 12 < 64 ∧ u8 b 13 < 32) ∧
        Table.find? locked.items (u16 b 0) = none ∧ locked.items.length < 1024 ∧
        replyTo (.itemPut b) locked = some (.done, put16 (u16 b 0) ++ bytes [1, 0, 1]) := by decide +kernel

theorem witness_ItemPutWrites_full :
    Table.find? (stocked 1024).items 1025 = none ∧ 1024 ≤ (stocked 1024).items.length ∧
      Table.find? (stocked 1023).items 1024 = none ∧ (stocked 1023).items.length < 1024 ∧
      Table.find? (stocked 1024).items 1024 = some plainItem := by decide +kernel

theorem witness_ItemDropAndGet :
    (stocked 2).Takes ∧ (∀ b ∈ [bytes [], bytes [1]], b.length ≠ 2) ∧ u16 (bytes [0, 0]) 0 = 0 ∧
      Table.find? (stocked 2).items (u16 (bytes [0, 3]) 0) = none ∧
      Table.find? (stocked 2).items (u16 (bytes [0, 2]) 0) = some plainItem ∧ Table.Rising (stocked 2).items :=
  ⟨stocked_takes 2, by decide, by decide, by decide, by decide +kernel, by decide⟩

theorem test_itemGet :
    replyTo (.itemGet (bytes [0, 2])) (stocked 2) =
      some (.done, bytes [0, 2, 0, 0, 1, 0xC2, 255, 255, 255, 255, 0, 2, 0, 4]) := by decide +kernel

theorem test_itemDrop : replyTo (.itemDrop (bytes [0, 2])) (stocked 2) = some (.done, bytes [0, 1]) := by decide +kernel

theorem witness_ListingsAscend :
    (stocked 3).Takes ∧ (bytes [0]).length ≠ 2 ∧ (bytes [0, 2]).length = 2 ∧ Table.Rising (stocked 3).items :=
  ⟨stocked_takes 3, by decide, by decide, by decide⟩

theorem test_itemList : replyTo (.itemList (bytes [0, 2])) (stocked 3) = some (.done, bytes [0, 2, 0, 2, 0, 3]) := by
  decide +kernel

theorem test_availList : replyTo (.availList (bytes [0, 0])) (stocked 3) = some (.done, bytes [0, 0]) := by decide +kernel

/-- The table of section 1.9. -/
def lunch : State :=
  { locked with
    items :=
      [(101, { plainItem with priceA := some 349, priceB := some 399 }), (102, { plainItem with priceA := some 199 }),
        (205, { plainItem with priceA := none, priceB := some 599 }),
        (240, { plainItem with priceA := some 129, priceB := some 129 })] }

/-- A PRICE PUT body for one bank selector. -/
def batch (sel : Nat) (pairs : List (Nat × Nat)) : List Byte :=
  put8 sel ++ pairs.flatMap (fun p => put16 p.1 ++ put32 p.2)

theorem test_pricePut_refused :
    replyTo (.pricePut (batch 1 [(101, 429), (102, 249), (310, 199), (240, 10000000)])) lunch = some (.noEntry, [2]) ∧
      replyTo (.pricePut (batch 1 [(101, 429), (102, 249), (240, 149), (101, 449)])) lunch = some (.conflict, [3]) := by
  decide +kernel

theorem test_pricePut_applied :
    (after (.pricePut (batch 1 [(101, 429), (102, 249), (240, 149), (205, 0xFFFFFFFF)])) lunch).items.map
        (fun e => (e.1, e.2.priceA, e.2.priceB)) =
      [(101, some 349, some 429), (102, some 199, some 249), (205, none, none), (240, some 129, some 149)] := by
  decide +kernel

theorem witness_PricePutRefusals :
    (∀ l ∈ [0, 1, 6, 8, 234, 236, 240], ∀ n : Fin 40, 1 ≤ n.val → l ≠ 1 + 6 * n.val) ∧
      (batch 0 [(1, 0)]).length = 1 + 6 * 1 ∧ (batch 3 ((List.range 39).map (fun k => (k + 1, 0)))).length = 1 + 6 * 39 ∧
      3 ≤ u8 (batch 3 [(1, 0)]) 0 ∧ u8 (batch 2 [(1, 0)]) 0 < 3 ∧
      Table.find? lunch.items (u16 (batch 2 [(101, 10000000)]) 1) ≠ none ∧
      10000000 ≤ u32 (batch 2 [(101, 10000000)]) 3 ∧ u32 (batch 2 [(101, 0xFFFFFFFE)]) 3 ≤ 0xFFFFFFFE := by decide +kernel

theorem witness_PricePutApplies :
    ∀ b ∈ [batch 2 [(101, 0), (240, 9999999), (205, 0xFFFFFFFF)]],
      b.length = 1 + 6 * 3 ∧ u8 b 0 < 3 ∧ ∀ j : Fin 3,
        Table.find? lunch.items (u16 b (1 + 6 * j.val)) ≠ none ∧ u16 b (1 + 6 * j.val) ≠ 0 ∧
        (u32 b (3 + 6 * j.val) ≤ 9999999 ∨ u32 b (3 + 6 * j.val) = 0xFFFFFFFF) ∧
        ∀ h : Fin 3, h < j → u16 b (1 + 6 * h.val) ≠ u16 b (1 + 6 * j.val) := by decide +kernel

/-! ## Formats and prices -/

theorem witness_FormatPutWrites_badField :
    ∀ b ∈ [bytes [8, 0, 0, 0, 0, 0, 0, 0, 0], bytes [0, 4, 0, 0, 0, 0, 0, 0, 0], bytes [0, 0, 2, 0, 0, 0, 0, 0, 0],
        bytes [0, 0, 0, 5, 0, 0, 0, 0, 0], bytes [0, 0, 0, 0, 2, 0, 0, 0, 0], bytes [0, 0, 0, 0, 0, 2, 0, 0, 0],
        bytes [0, 0, 0, 0, 0, 0, 5, 0, 0], bytes [0, 0, 0, 0, 0, 0, 0, 2, 0], bytes [0, 0, 0, 0, 0, 0, 0, 0, 2],
        bytes [0, 1, 1, 1, 0, 0, 0, 0, 0], bytes [0, 3, 0, 2, 0, 0, 0, 0, 0]],
      b.length = 9 ∧ replyTo (.formatPut b) locked = some (.badField, []) := by decide +kernel

theorem witness_FormatPutWrites :
    ∀ b ∈ [bytes [0, 0, 1, 1, 0, 0, 0, 0, 0], bytes [7, 3, 1, 4, 1, 1, 4, 1, 1]],
      (b.length = 9 ∧ u8 b 0 < 8 ∧ u8 b 1 < 4 ∧ u8 b 2 < 2 ∧ u8 b 3 < 5 ∧ u8 b 4 < 2 ∧ u8 b 5 < 2 ∧ u8 b 6 < 5 ∧ u8 b 7 < 2 ∧
        u8 b 8 < 2 ∧ (u8 b 1 = 0 ∨ ¬ ((u8 b 3 = 1 ∧ u8 b 2 = 1) ∨ (u8 b 3 = 2 ∧ u8 b 2 = 0)))) ∧
        replyTo (.formatPut b) locked = some (.done, [b.getD 0 0]) := by decide +kernel

theorem witness_FormatGetAndMode :
    locked.Takes ∧ (bytes []).length ≠ 1 ∧ 8 ≤ u8 (bytes [8]) 0 ∧ u8 (bytes [7]) 0 = (7 : Fin 8).val ∧
      2 ≤ u8 (bytes [2, 0]) 0 ∧ 8 ≤ u8 (bytes [0, 8]) 1 ∧ u8 (bytes [1, 7]) 1 = (7 : Fin 8).val ∧ u8 (bytes [1, 7]) 0 < 2 :=
  ⟨locked_takes, by decide +kernel⟩

theorem test_formatGet : replyTo (.formatGet (bytes [7])) locked = some (.done, bytes [7, 2, 0, 0, 0, 0, 0, 0, 0]) := by
  decide +kernel

theorem test_formatMode : replyTo (.formatMode (bytes [1, 7])) locked = some (.done, bytes [1, 7]) := by decide +kernel

/-- The advances of section 2.7. -/
def advances : List Nat :=
  [22, 14, 22, 22, 22, 22, 22, 22, 22, 22] ++ List.replicate 10 13 ++ [8, 8, 6, 5, 20, 24, 30, 26, 20]

/-- Format 1 of section 2.7. -/
def format1 : Format := { Format.reset with groupMark := .comma, symbol := 1 }

/-- Format 5 of section 2.7. -/
def format5 : Format :=
  { decimals := 2, decimalMark := .comma, groupMark := .thinSpace, minorStyle := .raised, dropZeroMinor := true, symbol := 2,
    symbolPlace := .after, symbolGap := true }

theorem test_priceGlyphs :
    priceGlyphs format1 1234567 = [25, 1, 2, 21, 3, 4, 5, 20, 6, 7] ∧
      priceGlyphs format5 1234567 = [1, 2, 23, 3, 4, 5, 16, 17, 23, 26] ∧
      [0, 45, 120000].map (fun p => sequenceWidth advances (priceGlyphs format1 p)) = [98, 98, 164] ∧
      [0, 45, 120000].map (fun p => sequenceWidth advances (priceGlyphs format5 p)) = [57, 83, 120] := by decide +kernel

theorem test_fitPrice :
    ([(format1, 200, FitPolicy.trimThenDash), (format1, 180, .trimThenDash), (format1, 180, .dash), (format5, 180, .trimThenDash),
        (format5, 120, .trimThenDash), (format5, 45, .trimThenDash), (format5, 15, .dash)].map
      (fun c => fitPrice advances c.2.2 c.2.1 c.1 1234567)).map (fun o => (o.1, sequenceWidth advances o.2)) =
      [(.drawn, 186), (.trimmed, 162), (.dashed, 60), (.drawn, 168), (.dashed, 60), (.dashed, 40), (.blank, 0)] := by
  decide +kernel

/-- The digits of 9999999 with no decimals, of 120000 with two, of 45 with three: lengths 7, 4 and 1, where grouping changes. -/
theorem witness_PriceIsWritten :
    (9999999 ≤ 9999999 ∧ (0 : Nat) = ({ format1 with decimals := 0 } : Format).decimals.val ∧ 2 = format5.decimals.val) ∧
      (format1.groupMark = .comma ∧ format5.groupMark = .thinSpace ∧ Format.reset.groupMark = .absent) ∧
      (format5.dropZeroMinor = true ∧ 120000 % 10 ^ 2 = 0 ∧ 1234567 % 10 ^ 2 ≠ 0 ∧ format1.dropZeroMinor = false) ∧
      (format5.minorStyle = .raised ∧ format1.minorStyle = .inline ∧ format1.decimalMark = .point) ∧
      (Format.reset.symbol = 0 ∧ format1.symbol ≠ 0 ∧ format1.symbolPlace = .before ∧ format5.symbolPlace = .after) ∧
      [9999999 / 10 ^ 0, 120000 / 10 ^ 2, 45 / 10 ^ 3].map (fun n => (decimalDigits 7 n).length) = [7, 4, 1] ∧
      (priceGlyphs format5 9999999).length = 10 := by decide +kernel

theorem test_groupMarks :
    [GroupMark.comma, .point, .apostrophe, .thinSpace, .absent].map
        (fun m => numberGlyphs { format1 with decimals := 0, groupMark := m } 1234567) =
      [[1, 21, 2, 3, 4, 21, 5, 6, 7], [1, 20, 2, 3, 4, 20, 5, 6, 7], [1, 22, 2, 3, 4, 22, 5, 6, 7], [1, 23, 2, 3, 4, 23, 5, 6, 7],
        [1, 2, 3, 4, 5, 6, 7]] := by decide +kernel

theorem witness_FitChoosesFirstCase :
    sequenceWidth advances (priceGlyphs format1 1234567) ≤ 186 ∧
      (185 < sequenceWidth advances (priceGlyphs format1 1234567) ∧ format1.symbol ≠ 0 ∧
        sequenceWidth advances (numberGlyphs format1 1234567) ≤ 162) ∧
      161 < sequenceWidth advances (numberGlyphs format1 1234567) := by decide +kernel

/-! ## Notices -/

theorem witness_RaisesCoalesce :
    (locked.notices[Source.flipDone.index]).priority ≠ 0 ∧
      ((after (.noticePut (bytes [6, 0])) locked).notices[Source.flipDone.index]).priority = 0 ∧ 255 < 256 := by
  decide +kernel

theorem witness_NoticePutSets :
    locked.Takes ∧ (∀ b ∈ [bytes [0, 0], bytes [2, 0], bytes [15, 0], bytes [3, 8]],
        b.length = 2 ∧ (u8 b 0 ≤ 2 ∨ 14 < u8 b 0 ∨ 7 < u8 b 1) ∧ replyTo (.noticePut b) locked = some (.badField, [])) ∧
      (∀ b ∈ [bytes [3, 0], bytes [14, 7]],
        b.length = 2 ∧ u8 b 1 ≤ 7 ∧ replyTo (.noticePut b) locked = some (.done, b ++ [0])) :=
  ⟨locked_takes, by decide +kernel, by decide +kernel⟩

/-! ## Slots and views -/

/-- A SLOT PUT body: slot 7, item 1, DIM level 4 when sold out, card 5 off the menu, MATCH with watch frames 3. -/
def slot7 : List Byte :=
  bytes [7, 2, 0x58, 1, 0x2C, 1, 0x2C, 1, 0x2C, 0, 1, 0, 10, 0, 20, 0, 200, 2, 0, 40, 40, 240, 200, 100, 40, 1, 0, 5, 0, 6, 0] ++
    bytes [1, 4, 0, 2, 5, 1, 0, 0, 1, 1, 0, 0, 0, 7, 0, 3]

/-- Items 1 and 2, with slot 7 bound and one step short of MISSING. -/
def bound : State :=
  { (after (.slotPut slot7) (stocked 2)) with
    margin := locked.margin
    slots :=
      (after (.slotPut slot7) (stocked 2)).slots.map (fun e => (e.1, { e.2 with counter := 2 }))
    feed := { locked.feed with live := List.replicate 240 [], completes := true } }

theorem witness_SlotPutBinds :
    (stocked 2).Takes ∧ (bytes []).length ≠ 47 ∧ slot7.length = 47 ∧ slotFieldsGood slot7 = true ∧
      slotFieldsGood (slot7.set 45 0 |>.set 46 0) = false ∧ slotFieldsGood (slot7.set 32 8) = false ∧
      slotFieldsGood (slot7.set 9 0 |>.set 10 0) = false :=
  ⟨stocked_takes 2, by decide, by decide +kernel⟩

theorem test_slotPut : replyTo (.slotPut slot7) (stocked 2) = some (.done, bytes [7, 0, 0, 1]) := by decide +kernel

theorem test_slotGet : replyTo (.slotGet (bytes [7])) bound = some (.done, slot7 ++ bytes [0, 2, 0]) := by decide +kernel

theorem witness_SlotDropAndGet :
    bound.Takes ∧ (bytes []).length ≠ 1 ∧ (bound.slot (u8 (bytes [255]) 0)).record = none ∧
      (bound.slot (u8 (bytes [7]) 0)).record = some (readSlot slot7) :=
  ⟨⟨⟨rfl, rfl⟩, by decide⟩, by decide, by decide +kernel, by decide +kernel⟩

theorem test_slotDrop : replyTo (.slotDrop (bytes [7])) bound = some (.done, bytes [0, 0]) := by decide +kernel

/-- Glyph set 0, 8 rows of 29 glyphs one column wide whose coverages are the column numbers, and card 5, one half-covered red
pixel beside a transparent one. -/
def someArt : Art :=
  [(0, { ready := true, shape := .glyphSet 8 (List.replicate 29 1)
         content := (List.range (8 * 29)).map (fun i => BitVec.ofNat 8 (i % 29)) }),
    (8, { ready := true, shape := .card 2 1 ⟨9, 9, 9⟩, content := bytes [128, 255, 0, 0, 0, 1, 2, 3] })]

/-- The record of slot 7 with a cover of card 5, and of card 6, which is EMPTY, in place of DIM. -/
def covering (k : Fin 63) : SlotRecord := { readSlot slot7 with soldOut := { action := .cover k, hide := false } }

theorem witness_ViewPrecedence :
    ((bound.slot 0).record = none ∧ (bound.slot 7).record = some (readSlot slot7) ∧
      Table.find? bound.items (readSlot slot7).item = some plainItem ∧ Table.find? bound.items 3 = none ∧
      plainItem.price .B = none ∧ plainItem.price .A = some 450 ∧ plainItem.mergedSoldOut bound.lines = false ∧
      Item.mergedSoldOut bound.lines { plainItem with soldOut := true } = true ∧ (bound.slot 7).missing = false ∧
      (Slot.rebind none (bound.slot 7)).record = none) ∧
    ((readyCard someArt 4).isSome = true ∧ readyCard someArt 5 = none ∧ (readyGlyphSet someArt 0).isSome = true ∧
      readyGlyphSet bound.art (readSlot slot7).glyphSet = none ∧ (readSlot slot7).glyphSet = 0 ∧
      (readSlot slot7).paperClear = true ∧ bound.formatMode.perItem = false) := by decide +kernel

theorem test_drawnAction :
    drawnAction someArt (covering 4) (.cover 4) = .coverCard 4 ∧
      drawnAction someArt (covering 5) (.cover 5) = .coverFallback ⟨0, 0, 0⟩ ∧
      drawnAction someArt { covering 5 with paperClear := false } (.cover 5) = .coverFallback ⟨200, 100, 40⟩ := by decide +kernel

/-- The price 450 in the reset format, in a set of one-column glyphs. -/
theorem test_drawnPrice :
    drawnPrice { bound with art := someArt } (readSlot slot7) plainItem 450 =
        { glyphSet := 0, glyphs := [4, 20, 5, 0], outcome := .drawn } ∧
      drawnPrice bound (readSlot slot7) plainItem 450 = { glyphSet := 0, glyphs := [], outcome := .noArt } := by decide +kernel

theorem test_dim : dimColour 4 ⟨201, 100, 37⟩ = ⟨100, 50, 18⟩ := by decide +kernel

theorem test_fade :
    [1, 2, 3].map (fun k => fadeColour k 3 ⟨200, 100, 40⟩ ⟨40, 40, 240⟩) = [⟨160, 85, 90⟩, ⟨120, 70, 140⟩, ⟨80, 55, 190⟩] := by
  decide +kernel

/-! ## Stock lines -/

theorem witness_MarkSetsSoldOut :
    (stocked 1).Takes ∧
      (∀ b ∈ [bytes [0, 0, 0], bytes [0, 1, 2]], b.length = 3 ∧ (u16 b 0 = 0 ∨ 2 ≤ u8 b 2)) ∧
      Table.find? (stocked 1).items (u16 (bytes [0, 2, 1]) 0) = none ∧
      Table.find? (stocked 1).items (u16 (bytes [0, 1, 1]) 0) = some plainItem ∧ u8 (bytes [0, 1, 1]) 2 < 2 :=
  ⟨stocked_takes 1, by decide +kernel⟩

theorem test_mark :
    replyTo (.mark (bytes [0, 1, 1])) (stocked 1) = some (.done, bytes [1, 0, 1]) ∧
      (after (.mark (bytes [0, 1, 1])) (stocked 1)).notices[Source.availChange.index].held = some 1 := by decide +kernel

/-- A stock line of class 2, in force. -/
def classLine : Line := { Line.reset with function := .classOut, stockClass := 2, active := true }

/-- Line 2 in force for class 2, with item 1 of that class. -/
def classOutPart : State := { stocked 1 with lines := (stocked 1).lines.set 2 classLine }

theorem witness_LinePutReplaces :
    classOutPart.Takes ∧
      (∀ b ∈ [bytes [8, 0, 0, 1, 0, 0, 0, 0], bytes [0, 4, 0, 1, 0, 0, 0, 0], bytes [0, 0, 2, 1, 0, 0, 0, 0],
          bytes [0, 0, 0, 0, 0, 0, 0, 0], bytes [0, 0, 0, 16, 0, 0, 0, 0], bytes [0, 0, 0, 1, 8, 0, 0, 0],
          bytes [0, 0, 0, 1, 0, 16, 0, 0], bytes [0, 0, 0, 1, 0, 0, 2, 0], bytes [0, 0, 0, 1, 0, 0, 0, 2]],
        b.length = 8 ∧ replyTo (.linePut b) classOutPart = some (.badField, [])) ∧
      classOutPart.lines[2].active = true ∧ classOutPart.lines[7].active = false ∧
      u8 (bytes [2, 3, 1, 15, 7, 15, 1, 1]) 0 = (2 : Fin 8).val ∧ (bytes [2, 3, 1, 15, 7, 15, 1, 1]).length = 8 :=
  ⟨⟨⟨rfl, rfl⟩, by decide⟩, by decide +kernel, by decide +kernel⟩

theorem test_linePut_masks :
    replyTo (.linePut (bytes [2, 1, 0, 4, 2, 0, 0, 1])) classOutPart = some (.done, bytes [2, 0]) ∧
      (after (.linePut (bytes [2, 1, 0, 4, 2, 0, 0, 1])) classOutPart).notices[Source.availChange.index].held = some 1 := by
  decide +kernel

theorem witness_LineGetAndSample :
    locked.Takes ∧ 8 ≤ u8 (bytes [8]) 0 ∧ u8 (bytes [7]) 0 = (7 : Fin 8).val ∧
      decide (true = Line.reset.activeHigh) = Line.reset.active ∧ decide (false = Line.reset.activeHigh) ≠ Line.reset.active ∧
      Line.reset.run + 1 < Line.reset.debounce ∧
      ({ Line.reset with run := 3 } : Line).debounce ≤ ({ Line.reset with run := 3 } : Line).run + 1 :=
  ⟨locked_takes, by decide +kernel⟩

theorem test_lineGet :
    replyTo (.lineGet (bytes [2])) classOutPart = some (.done, bytes [2, 1, 0, 4, 2, 0, 0, 0, 0, 1, 0]) := by decide +kernel

/-! ## Panel groups -/

/-- A group in each flip state; waiting, settling and fading to bank B. -/
def waiting : Group := { Group.reset with flip := .waiting, target := some .B }

def settling : Group := { Group.reset with flip := .settling, target := some .B, settle := 2, age := 1 }

def fading : Group := { Group.reset with flip := .fading, target := some .B, fadeStep := 3, fadeLength := 3, fadeFrames := 3 }

/-- A group in each hold phase. -/
def captureDue : Group := { Group.reset with commandHold := true, phase := .captureDue }

def captured : Group := { Group.reset with commandHold := true, phase := .captured, capture := some [], holdAge := 299 }

def releaseDue : Group := { Group.reset with phase := .releaseDue, capture := some [] }

/-- A LOCKED part with the four groups given. -/
def grouped (a b c d : Group) : State := { locked with groups := #v[a, b, c, d] }

theorem grouped_takes (a b c d : Group) : (grouped a b c d).Takes := ⟨⟨rfl, rfl⟩, locked_takes.2⟩

theorem witness_GroupPutAndGet :
    (grouped waiting Group.reset captured fading).Takes ∧
      (∀ b ∈ [bytes [4, 0, 0, 0, 0, 0, 0, 0], bytes [1, 0, 0, 0, 2, 0, 0, 0], bytes [1, 0, 0, 0, 0, 31, 0, 0]],
        b.length = 8 ∧ (4 ≤ u8 b 0 ∨ 2 ≤ u8 b 4 ∨ 30 < u8 b 5) ∧
          replyTo (.groupPut b) (grouped waiting Group.reset captured fading) = some (.badField, [])) ∧
      (grouped waiting Group.reset captured fading).groups[0].flip ≠ .idle ∧
      (grouped waiting Group.reset captured fading).groups[1].flip = .idle ∧ u8 (bytes [3]) 0 = (3 : Fin 4).val ∧
      4 ≤ u8 (bytes [4]) 0 :=
  ⟨grouped_takes _ _ _ _, by decide +kernel⟩

theorem test_groupPut :
    replyTo (.groupPut (bytes [0, 255, 255, 255, 1, 30, 255, 255])) (grouped waiting waiting waiting waiting) =
        some (.wrongState, []) ∧
      replyTo (.groupPut (bytes [3, 255, 255, 255, 1, 30, 255, 255])) locked = some (.done, [3]) := by decide +kernel

theorem test_groupGet :
    replyTo (.groupGet (bytes [0])) locked =
      some (.done, bytes [0, 0, 0, 255, 255, 0, 0, 0, 0, 0, 2, 2, 88, 0, 0, 0, 0, 0, 0, 0, 0, 0, 0, 15, 0]) := by
  decide +kernel

theorem witness_FlipRequestOutcomes :
    (Group.reset.phase = .free ∧ Group.reset.flip = .idle ∧ Bank.A = Group.reset.shown ∧ Bank.B ≠ Group.reset.shown) ∧
      (waiting.phase = .free ∧ waiting.flip = .waiting ∧ waiting.target = some .B ∧ waiting.target ≠ some waiting.shown) ∧
      settling.flip = .settling ∧
      (fading.phase = .free ∧ fading.flip = .fading ∧ fading.target = some .B ∧ fading.target ≠ some fading.shown) ∧
      captureDue.phase = .captureDue ∧ captured.phase = .captured ∧ releaseDue.phase = .releaseDue := by decide +kernel

theorem witness_FlipSendsRequests :
    locked.Takes ∧ (∀ b ∈ [bytes [0, 0], bytes [16, 0], bytes [1, 2]], b.length = 2 ∧ replyTo (.flip b) locked = some (.badField, [])) ∧
      (∀ b ∈ [bytes [1, 0], bytes [15, 1]], b.length = 2 ∧ 1 ≤ u8 b 0 ∧ u8 b 0 < 16 ∧ (u8 b 1 = Bank.A.code ∨ u8 b 1 = Bank.B.code)) :=
  ⟨locked_takes, by decide +kernel, by decide +kernel⟩

theorem test_flip :
    replyTo (.flip (bytes [15, 1])) (grouped Group.reset waiting fading captured) = some (.done, bytes [2, 3, 3, 5]) ∧
      replyTo (.flip (bytes [7, 0])) (grouped Group.reset waiting fading captured) = some (.done, bytes [1, 4, 5, 0]) := by
  decide +kernel

theorem witness_HoldAndRelease :
    (grouped waiting captured releaseDue captureDue).Takes ∧
      (∀ b ∈ [bytes [0], bytes [16]], b.length = 1 ∧ (u8 b 0 = 0 ∨ 16 ≤ u8 b 0)) ∧ 1 ≤ u8 (bytes [15]) 0 ∧
      waiting.hasSource = false ∧ captured.hasSource = true ∧ ({ waiting with commandHold := true } : Group).hasSource = true ∧
      ({ waiting with commandHold := true } : Group).phase = .free ∧ releaseDue.capture.isSome = true ∧
      ({ releaseDue with capture := none } : Group).capture = none ∧ Group.reset.flip = .idle ∧
      ({ captureDue with commandHold := false } : Group).phase = .captureDue ∧
      ({ captured with commandHold := false } : Group).hasSource = false :=
  ⟨grouped_takes _ _ _ _, by decide +kernel⟩

theorem test_hold_and_release :
    replyTo (.hold (bytes [15])) (grouped waiting captured releaseDue captureDue) = some (.done, bytes [1, 2, 2, 1]) ∧
      replyTo (.release (bytes [15])) (grouped waiting captured releaseDue captureDue) = some (.done, bytes [0, 3, 3, 3]) := by
  decide +kernel

theorem witness_FlipStageRules :
    Group.reset.flip = .idle ∧ waiting.target = some .B ∧ waiting.timeoutFrames ≠ 0 ∧
      ({ waiting with age := 599 } : Group).timeoutFrames ≤ min 65535 (599 + 1) ∧ waiting.force = false ∧
      ({ waiting with timeoutFrames := 65535, age := 65535 } : Group).timeoutFrames ≤ min 65535 (65535 + 1) ∧
      ({ waiting with force := true } : Group).fadeFrames = 0 ∧ fading.fadeFrames ≠ 0 ∧
      min 65535 (598 + 1) < waiting.timeoutFrames ∧ waiting.settleFrames ≠ 0 ∧ 1 < settling.settle ∧
      ({ settling with settle := 1 } : Group).settle ≤ 1 ∧ ({ waiting with settleFrames := 0 } : Group).settleFrames = 0 ∧
      ({ fading with fadeStep := 2 } : Group).fadeStep < fading.fadeLength ∧ fading.fadeLength ≤ fading.fadeStep := by
  decide +kernel

theorem test_flipStage :
    (fading.flipStage true).2 = .fadeCompletes ∧ (settling.flipStage false).1.flip = .waiting ∧
      (({ settling with settle := 1 } : Group).flipStage true).1.shown = .B := by decide +kernel

theorem witness_HoldStageRules :
    Group.reset.phase = .free ∧ captureDue.phase = .captureDue ∧ captureDue.flip = .idle ∧
      ({ captureDue with flip := .fading, target := some .B } : Group).flip ≠ .idle ∧ captured.phase = .captured ∧
      captured.holdLimit = 0 ∧ min 65535 (captured.holdAge + 1) < ({ captured with holdLimit := 301 } : Group).holdLimit ∧
      ({ captured with holdLimit := 300 } : Group).holdLimit ≤ min 65535 (captured.holdAge + 1) ∧
      releaseDue.phase = .releaseDue ∧ ({ Group.reset with pendingTarget := some .B } : Group).pendingTarget = some .B := by
  decide +kernel

/-! ## Clock and schedule -/

/-- The schedule of section 6.4. -/
def week : List (Nat × Entry) :=
  [(0, ⟨21600, 0x7F, 3, .A⟩), (1, ⟨37800, 0x1F, 3, .B⟩), (2, ⟨39600, 0x60, 3, .B⟩), (3, ⟨36000, 0x20, 2, .B⟩),
    (4, ⟨79200, 0x7F, 8, .A⟩)]

/-- The part of section 6.4: group 0 shows bank B, group 1 is held. -/
def saturday : State := { grouped { Group.reset with shown := .B } captured Group.reset Group.reset with schedule := week }

theorem test_clockSet_resync :
    replyTo (.clockSet (bytes [5] ++ put32 38000)) saturday = some (.done, bytes [0, 2, 3, 5, 255, 0, 4, 1]) := by
  decide +kernel

theorem saturday_takes : saturday.Takes := ⟨⟨rfl, rfl⟩, locked_takes.2⟩

theorem week_ok : ScheduleOk week := by
  refine ⟨by decide, by decide +kernel, by decide +kernel⟩

theorem witness_ClockSetResyncs :
    saturday.Takes ∧ (0 : Nat) < 604800 ∧ 604799 < 604800 ∧
      ((⟨21600, 0x7F, 3, .A⟩ : Entry).time < 86400 ∧ (⟨21600, 0x7F, 3, .A⟩ : Entry).days ≠ 0) ∧
      (∀ b ∈ [bytes [7, 0, 0, 0, 0], bytes [0] ++ put32 86400], b.length = 5 ∧ (6 < u8 b 0 ∨ 86399 < u32 b 1)) ∧
      saturday.clock.running = false ∧
      (∀ b ∈ [bytes [0, 0, 0, 0, 0], bytes [6] ++ put32 86399], b.length = 5 ∧ u8 b 0 ≤ 6 ∧ u32 b 1 ≤ 86399) ∧
      (after (.clockSet (bytes [6] ++ put32 86399)) saturday).clock = { running := true, day := 6, second := 86399 } :=
  ⟨saturday_takes, by decide +kernel⟩

theorem witness_ClockGetScheduleDropAndGet :
    saturday.Takes ∧ (bytes [0]).length ≠ 0 ∧ 31 < u8 (bytes [32]) 0 ∧ u8 (bytes [31]) 0 ≤ 31 ∧
      Table.find? saturday.schedule (u8 (bytes [31]) 0) = none ∧
      Table.find? saturday.schedule (u8 (bytes [4]) 0) = some ⟨79200, 0x7F, 8, .A⟩ ∧ Table.Rising saturday.schedule :=
  ⟨saturday_takes, by decide +kernel⟩

theorem test_scheduleGet_and_drop :
    replyTo (.scheduleGet (bytes [4])) saturday = some (.done, bytes [4, 0, 1, 0x35, 0x60, 0x7F, 8, 0]) ∧
      replyTo (.scheduleDrop (bytes [4])) saturday = some (.done, [4]) := by decide +kernel

theorem test_clockGet : replyTo (.clockGet []) saturday = some (.done, bytes [0, 0, 0, 0, 0, 0]) := by decide +kernel

/-- A SCHEDULE PUT body. -/
def entryBytes (n time days groups bank : Nat) : List Byte := put8 n ++ put32 time ++ bytes [days, groups, bank]

theorem witness_SchedulePutWrites :
    saturday.Takes ∧
      (∀ b ∈ [entryBytes 32 0 1 1 0, entryBytes 0 86400 1 1 0, entryBytes 0 0 0 1 0, entryBytes 0 0 128 1 0,
          entryBytes 0 0 1 0 0, entryBytes 0 0 1 16 0, entryBytes 0 0 1 1 2],
        b.length = 8 ∧ replyTo (.schedulePut b) saturday = some (.badField, [])) ∧
      (∀ b ∈ [entryBytes 31 86399 127 15 1, entryBytes 4 0 1 1 0],
        b.length = 8 ∧ u8 b 0 ≤ 31 ∧ u32 b 1 ≤ 86399 ∧ 1 ≤ u8 b 5 ∧ u8 b 5 < 128 ∧ 1 ≤ u8 b 6 ∧ u8 b 6 < 16 ∧ u8 b 7 ≤ 1) ∧
      Table.Rising saturday.schedule :=
  ⟨saturday_takes, by decide +kernel, by decide +kernel, by decide⟩

theorem test_schedulePut :
    replyTo (.schedulePut (entryBytes 5 21600 1 1 1)) saturday = some (.conflict, [0]) ∧
      replyTo (.schedulePut (entryBytes 0 21600 1 1 1)) saturday = some (.done, bytes [0, 5]) := by decide +kernel

theorem witness_SecondTickFires :
    saturday.clock.running = false ∧
      (∀ c ∈ [({ running := true, day := 5, second := 39599 } : Clock), { running := true, day := 6, second := 86399 }],
        c.running = true ∧ c.day < 7 ∧ c.second < 86400) ∧ ScheduleOk saturday.schedule ∧ saturday.resetPin = false :=
  ⟨rfl, by decide, week_ok, rfl⟩

theorem test_secondTick :
    (after .secondTick { saturday with clock := { running := true, day := 5, second := 39599 } }).notices[Source.scheduleFired.index].held =
        some 4 ∧
      (after .secondTick { saturday with clock := { running := true, day := 6, second := 86399 } }).clock =
        { running := true, day := 0, second := 0 } := by decide +kernel

/-! ## Panel outputs -/

/-- An OUTPUT PUT body. -/
def outputBytes (k enabled x y w h group card : Nat) : List Byte :=
  bytes [k, enabled] ++ put16 x ++ put16 y ++ put16 w ++ put16 h ++ bytes [group, card]

theorem witness_OutputPutActs_badField :
    ∀ b ∈ [outputBytes 4 0 0 0 1 1 0 0, outputBytes 0 2 0 0 1 1 0 0, outputBytes 0 0 7680 0 1 1 0 0,
        outputBytes 0 0 0 2160 1 1 0 0, outputBytes 0 0 0 0 0 1 0 0, outputBytes 0 0 0 0 3841 1 0 0,
        outputBytes 0 0 0 0 1 0 0 0, outputBytes 0 0 0 0 1 2161 0 0, outputBytes 0 0 7679 0 2 1 0 0,
        outputBytes 0 0 0 2159 1 2 0 0, outputBytes 0 0 0 0 1 1 4 0, outputBytes 0 0 0 0 1 1 0 64],
      b.length = 12 ∧ replyTo (.outputPut b) locked = some (.badField, []) := by decide +kernel

/-- Output 0 MISFIT with a panel of 1920 by 1200, output 1 DISABLED, output 2 FAILED, output 3 UP (section 7.7). -/
def swapped : State :=
  { locked with
    outputs :=
      #v[{ Output.reset 0 with link := .misfit, matched := some ⟨1920, 1200, 60, true⟩, latest := some ⟨⟨1920, 1200, 60, true⟩, false, true⟩ },
        { Output.reset 1 with enabled := false, link := .off }, { Output.reset 2 with link := .failed, failures := 8 },
        { Output.reset 3 with link := .up, matched := some ⟨1920, 1080, 60, true⟩ }] }

theorem swapped_takes : swapped.Takes := ⟨⟨rfl, rfl⟩, by decide⟩

theorem witness_OutputPutActs :
    swapped.Takes ∧
      (∀ b ∈ [outputBytes 0 1 0 0 1920 1200 0 0, outputBytes 1 1 7679 2159 1 1 3 63, outputBytes 2 1 0 0 3840 2160 0 0,
          outputBytes 3 0 0 0 1 1 0 0],
        b.length = 12 ∧ u8 b 1 ≤ 1 ∧ u16 b 2 ≤ 7679 ∧ u16 b 4 ≤ 2159 ∧ 1 ≤ u16 b 6 ∧ u16 b 6 ≤ 3840 ∧ 1 ≤ u16 b 8 ∧
          u16 b 8 ≤ 2160 ∧ u16 b 2 + u16 b 6 ≤ 7680 ∧ u16 b 4 + u16 b 8 ≤ 2160 ∧ u8 b 10 < 4 ∧ u8 b 11 < 64 ∧ u8 b 0 < 4) ∧
      swapped.outputs[0].link = .misfit ∧ swapped.outputs[1].link = .off ∧ swapped.outputs[2].link = .failed ∧
      swapped.outputs[3].link = .up :=
  ⟨swapped_takes, by decide +kernel⟩

theorem test_outputPut :
    replyTo (.outputPut (outputBytes 0 1 0 0 1920 1200 0 0)) swapped = some (.done, bytes [0, 3]) ∧
      replyTo (.outputPut (outputBytes 1 1 0 0 1 1 3 63)) swapped = some (.done, bytes [1, 1]) := by decide +kernel

theorem witness_OutputGetAndRelink :
    swapped.Takes ∧ 3 < u8 (bytes [4]) 0 ∧ u8 (bytes [3]) 0 = (3 : Fin 4).val ∧
      (∀ b ∈ [bytes [0], bytes [16]], b.length = 1 ∧ (u8 b 0 = 0 ∨ 16 ≤ u8 b 0)) ∧ 1 ≤ u8 (bytes [15]) 0 ∧
      u8 (bytes [15]) 0 < 16 ∧ swapped.outputs[3].latest = none ∧ swapped.outputs[0].latest.isSome = true :=
  ⟨swapped_takes, by decide +kernel⟩

theorem test_outputGet :
    replyTo (.outputGet (bytes [0])) swapped =
      some (.done, bytes [0, 1, 0, 0, 0, 0, 7, 128, 4, 56, 0, 0, 4, 0, 0, 0, 0, 1, 7, 128, 4, 176, 60, 1, 0]) := by
  decide +kernel

theorem test_panelRelink : replyTo (.panelRelink (bytes [15])) swapped = some (.done, bytes [1, 0, 1, 1]) := by decide +kernel

/-- An ability word of 1920 by the given height, 60 a second, with the given flags. -/
def word (height flags : Nat) : List Byte := withCheck (put16 1920 ++ put16 height ++ bytes [60, flags])

theorem witness_AbilityWordHandled :
    (word 1080 1).length = 8 ∧ checkGood (word 1080 1) = true ∧ checkGood (bytes [0, 0, 0, 0, 0, 0, 0, 0]) = false ∧
      locked.resetPin = false ∧ locked.outputs[0].laneMuted = false ∧ locked.outputs[0].link = .offer ∧
      swapped.outputs[0].link = .misfit ∧ swapped.outputs[0].matched = some ⟨1920, 1200, 60, true⟩ ∧
      swapped.outputs[2].link = .failed ∧ swapped.outputs[3].link = .up ∧
      ({ Output.reset 0 with link := .matching, matched := some ⟨1920, 1080, 60, true⟩, failures := 7 } : Output).failures + 1 = 8 ∧
      ({ Output.reset 0 with link := .plain } : Output).link = .plain := by decide +kernel

theorem test_abilityWord :
    (after (.abilityWord 0 (word 1080 1)) locked).outputs[0].run = 1 ∧
      ((after (.abilityWord 3 (word 1200 3)) swapped).outputs[3].link, (after (.abilityWord 3 (word 1080 3)) swapped).outputs[3].faultLatch) =
        (.offer, true) := by decide +kernel

theorem witness_PanelUnitsHandled :
    locked.resetPin = false ∧ (3 : Byte) ≠ 1 ∧ (3 : Byte) ≠ 2 ∧ checkGood (bytes [7, 0, 0, 0]) = false ∧
      240 < u8 (bytes [7, 241]) 1 ∧ (List.replicate 240 (0 : Byte)).length ≤ 240 ∧ relaying.outputs[0].link = .up ∧
      relaying.outputs[0].up.length < 4 ∧ relaying.outputs[2].link ≠ .up ∧ relaying.outputs[2].link ≠ .misfit ∧
      4 ≤ ({ relaying.outputs[0] with up := List.replicate 4 ⟨7, []⟩ } : Output).up.length := by decide +kernel

theorem test_panelPacket :
    (after (.panelPacket 0 (withCheck (bytes [7, 1, 9]))) relaying).outputs[0].up = [⟨7, [9]⟩] ∧
      (after (.unknownUnit 0 3) relaying).outputs[0].laneMuted = true := by decide +kernel

/-! ## The feed -/

/-- An input frame of 320 by 240 with no rows yet. -/
def frame240 (interval : Nat) : InputFrame := { width := 320, height := 240, interval := interval, rows := [], pins := ⟨0, 0⟩, overdue := false }

/-- A part in a feed state, with its training run. -/
def feeding (state : FeedState) (training : Training) : State :=
  { locked with feed := { locked.feed with state := state, training := training } }

theorem witness_FeedCommandsAndSignal :
    locked.Takes ∧ locked.Reads ∧ u16 (bytes [0, 0]) 0 = 0 ∧ u16 (bytes [255, 255]) 0 ≠ 0 ∧
      locked.feed.geometry = some ⟨320, 240⟩ ∧ State.reset.feed.state = .dark ∧ State.reset.resetPin = false ∧
      heldPart.resetPin = true ∧ (feeding .training (.one ⟨320, 240⟩)).feed.state = .training ∧
      (feeding .coasting .empty).feed.state = .coasting ∧ ¬ (feeding .coasting .empty).Reads :=
  ⟨locked_takes, locked_reads, by decide, by decide, rfl, rfl, rfl, by decide +kernel, rfl, rfl,
    fun h => absurd h.1.2 (by decide +kernel)⟩

theorem test_feedPut : replyTo (.feedPut (bytes [0, 90])) locked = some (.done, bytes [0, 90]) := by decide +kernel

theorem test_feedGet :
    replyTo (.feedGet []) locked = some (.done, bytes [2, 7, 8, 1, 64, 0, 240, 1, 0x31, 0x2D, 0, 0, 0, 0, 0]) := by
  decide +kernel

theorem test_signalLost :
    (after (.signalLost true) locked).feed.state = .locked ∧ counters (after (.signalLost true) locked) = (0, 1, 0, true, 0) ∧
      (after (.signalLost false) (feeding .training .empty)).feed.state = .dark := by decide +kernel

theorem witness_InputFrameStartHandled :
    (320 ≤ (frame240 0).width ∧ (frame240 0).width ≤ 7680 ∧ 240 ≤ (frame240 0).height ∧ (frame240 0).height ≤ 2160) ∧
      ¬ (320 ≤ ({ frame240 0 with width := 319 } : InputFrame).width) ∧ (16583333 ≤ 16583333 ∧ 41875000 ≤ 41875000) ∧
      State.reset.feed.state = .dark ∧ (feeding .training (.two ⟨320, 240⟩ 20000000)).feed.markerSeen = true ∧
      intervalsAgree 20000000 20100000 = true ∧ intervalsAgree 20000000 20100001 = false ∧
      intervalsAgree 20000000 19900000 = true ∧ intervalsAgree 20000000 19899999 = false ∧
      locked.feed.geometry = some ⟨320, 240⟩ ∧ locked.feed.markerSeen = true ∧ Table.Rising bound.slots ∧
      (feeding .coasting .empty).feed.state ≠ .locked ∧ bound.feed.state = .locked ∧
      (frame240 0).overdue = false ∧ ({ frame240 0 with overdue := true } : InputFrame).overdue = true ∧
      bound.resetPin = false ∧ 1 ≤ bound.feed.coastLimit := by decide +kernel

theorem test_lock :
    (after (.inputFrameStart (frame240 20100000)) (feeding .coasting (.two ⟨320, 240⟩ 20000000))).feed.state = .locked ∧
      (after (.inputFrameStart (frame240 20100000)) (feeding .coasting (.two ⟨320, 240⟩ 20000000))).notices[Source.feedChange.index].held =
        some 2 ∧
      (after (.inputFrameStart (frame240 20100000)) (feeding .coasting (.two ⟨320, 240⟩ 20000000))).feed.frameNumber = 1 := by
  decide +kernel

/-- What a feed shows of a COASTING entry: its state, its latch, its coast count and the frame number. -/
def coastShown (s : State) : FeedState × Bool × Nat × Word := (s.feed.state, s.feed.lost, s.feed.coast, s.feed.frameNumber)

/-- The frame start of the entry to COASTING comes with the missing frame, as at 50 in section 8.8. -/
theorem test_missingFrame : coastShown (after (.missingFrame ⟨0, 0⟩) locked) = (.coasting, true, 1, 1) := by decide +kernel

/-- A discarded frame: early, the timed frame start is yet to come (section 8.9); late, it comes at once. -/
theorem test_discarded :
    coastShown (after (.inputFrameStart (frame240 18000000)) locked) = (.coasting, true, 0, 0) ∧
      coastShown (after (.inputFrameStart { frame240 25000000 with overdue := true }) locked) = (.coasting, true, 1, 1) := by
  decide +kernel

theorem bound_slots :
    bound.slots =
      [(7, { record := some (readSlot slot7), counter := 2, missing := false, sample := none, fit := Vector.replicate 4 .nothing })] := by
  decide +kernel

theorem slotsOk_bound : SlotsOk bound.slots := by
  rw [bound_slots]
  refine ⟨by decide, fun e he => ?_⟩
  rw [List.mem_singleton] at he
  subst he
  refine ⟨by decide, by decide +kernel, by simp, fun r hr => ?_⟩
  simp only [Option.some.injEq] at hr
  subst hr
  decide +kernel

theorem witness_InputFrameCompletes :
    locked.feed.completes = false ∧ (feeding .coasting .empty).feed.state ≠ .locked ∧
      (bound.feed.state = .locked ∧ bound.feed.completes = true ∧ bound.feed.geometry = some ⟨320, 240⟩ ∧
        bound.feed.live.length = 240) ∧ SlotsOk bound.slots ∧ (bound.slot 0).record = none ∧
      (bound.slot 7).record = some (readSlot slot7) ∧ (readSlot slot7).watchMode = .matching ∧
      (bound.slot 7).missing = false ∧ (readSlot slot7).watchFrames ≤ (bound.slot 7).counter + 1 :=
  ⟨rfl, by decide, ⟨rfl, rfl, rfl, by decide +kernel⟩, slotsOk_bound, by decide +kernel⟩

theorem test_watch :
    ((after .inputFrameComplete bound).slot 7).missing = true ∧
      (after .inputFrameComplete bound).notices[Source.photoWatch.index].held = some 1 ∧
      ((after (.watchFramesReached 7) bound).slot 7).counter = 3 := by decide +kernel

/-! ## The frame start -/

/-- All stock lines HIGH, a panel on every output. -/
def allPins : FramePins := { lines := 0xFF, presence := 15 }

theorem witness_OutputsAtFrameStart :
    Output.reset 0 = { Output.reset 0 with presence := false, laneMuted := false } ∧ (Output.reset 0).link = .offer ∧
      ({ Output.reset 0 with silence := 58 } : Output).silence + 1 < 60 ∧
      60 ≤ ({ Output.reset 0 with silence := 59 } : Output).silence + 1 ∧
      ({ Output.reset 0 with link := .matching, ackWait := 28 } : Output).ackWait + 1 < 30 ∧
      30 ≤ ({ Output.reset 0 with link := .matching, ackWait := 29 } : Output).ackWait + 1 ∧
      ({ Output.reset 0 with failures := 6 } : Output).failures + 1 < 8 ∧
      8 ≤ ({ Output.reset 0 with failures := 7 } : Output).failures + 1 ∧
      ({ Output.reset 0 with link := .up, silence := 8 } : Output).silence + 1 < 10 ∧
      10 ≤ ({ Output.reset 0 with link := .misfit, silence := 9 } : Output).silence + 1 ∧
      swapped.outputs[1].enabled = false ∧ swapped.outputs[0].matched = some ⟨1920, 1200, 60, true⟩ ∧
      swapped.outputs[0].enabled = true ∧ swapped.outputs[3].link ≠ .misfit := by decide +kernel

theorem test_output_frames :
    (swapped.outputs[0].frame).map (fun f => (f.rasterHeight, f.margin)) = some (1200, bytes [7, 128, 4, 56, 1]) ∧
      ({ Output.reset 2 with link := .matching, ackWait := 29, failures := 7 } : Output).atFrame true =
        { Output.reset 2 with link := .failed, ackWait := 30, failures := 8, presence := true } := by decide +kernel

theorem witness_FrameStartTaken :
    locked.resetPin = false ∧ locked.feed.state ≠ .coasting ∧ (feeding .coasting .empty).feed.state = .coasting ∧
      ({ (feeding .coasting .empty).feed with coast := 1799 } : Feed).coast + 1 ≤ (feeding .coasting .empty).feed.coastLimit ∧
      (feeding .coasting .empty).feed.coastLimit < ({ (feeding .coasting .empty).feed with coast := 1800 } : Feed).coast + 1 ∧
      locked.feed.geometry = some ⟨320, 240⟩ := by decide +kernel

theorem test_frameStart :
    ((after (.frameStart allPins) locked).feed.frameNumber, (after (.frameStart allPins) locked).outputs[3].silence) = (1, 1) ∧
      (after (.frameStart allPins) bound).slot 7 = { (bound.slot 7) with fit := #v[.noArt, .noArt, .noArt, .noArt] } := by
  decide +kernel

theorem witness_GroupsAtFrameStart :
    bound.resetPin = false ∧ Table.Rising bound.slots ∧ (orphanView (readSlot slot7)).price = none ∧
      (presentView bound false (readSlot slot7) plainItem 450).price.isSome = true := by decide +kernel

theorem test_frameView :
    (frameView bound .A).map (fun e => (e.1, e.2.kind)) = [(7, .priced)] ∧ frameView locked .A = [] := by decide +kernel

/-- A hold limit of 300: the capture is drawn at age 299 and not when the age reaches 300. -/
theorem test_drawsCapture :
    [0, 298, 299].map (fun age => ({ captured with holdLimit := 300, holdAge := age } : Group).drawsCapture) =
        [true, true, false] ∧
      ({ captured with holdLimit := 300, holdAge := 299 } : Group).limitApplies = true ∧
      ({ captured with holdLimit := 0, holdAge := 65535 } : Group).drawsCapture = true ∧
      Group.drawsCapture { captured with phase := .free } = false := by decide +kernel

theorem test_noSet : State.raiseSet .flipDone 0 locked = locked ∧ fourWord (fun k => k.val == 0 || k.val == 3) = 9 := by
  decide +kernel

theorem test_blocks :
    (Shape.glyphSet 40 advances).size = 19560 ∧ (Shape.glyphSet 40 advances).blocks = 5 ∧
      (Shape.card 32 32 ⟨0, 0, 0⟩).blocks = 1 ∧ (Shape.card 32 33 ⟨0, 0, 0⟩).blocks = 2 := by decide +kernel

/-- A part at every threshold: line 0 one sample short of a change, outputs at their limits, the coast at its limit, and groups
about to time out, to execute, to end a fade and to reach a hold limit. -/
def thresholds : State :=
  { feeding .coasting .empty with
    feed := { (feeding .coasting .empty).feed with coast := 1800 }
    lines := locked.lines.set 0 { Line.reset with run := 3 }
    outputs :=
      #v[{ Output.reset 0 with silence := 59, group := 3 }, { Output.reset 1 with link := .matching, ackWait := 29, group := 3 },
        { Output.reset 2 with link := .up, silence := 9, group := 3 }, { Output.reset 3 with link := .plain, group := 3 }]
    groups :=
      #v[{ waiting with age := 599 }, { settling with settle := 1 }, fading, { captured with holdLimit := 300 }] }

theorem witness_ThresholdFrameStarts :
    thresholds.resetPin = false ∧
      (decide ((0xFE : LineSet).getLsbD 0 = thresholds.lines[0].activeHigh) ≠ thresholds.lines[0].active ∧
        thresholds.lines[0].debounce ≤ thresholds.lines[0].run + 1) ∧
      (thresholds.feed.state = .coasting ∧ thresholds.feed.coastLimit < thresholds.feed.coast + 1) ∧
      (thresholds.outputs[0].link = .offer ∧ 60 ≤ thresholds.outputs[0].silence + 1) ∧
      (thresholds.outputs[1].link = .matching ∧ 30 ≤ thresholds.outputs[1].ackWait + 1) ∧
      (thresholds.outputs[2].link = .up ∧ 10 ≤ thresholds.outputs[2].silence + 1) ∧
      ¬ (locked.outputs[0].link = .offer ∧ 60 ≤ locked.outputs[0].silence + 1) := by decide +kernel

theorem test_thresholds_of_blocks :
    (after (.debouncedChange 0 { allPins with lines := 0xFE }) thresholds).lines[0].active = true ∧
      (after (.coastLimit allPins) thresholds).feed.state = .training ∧
      (after (.silenceToPlain 0 allPins) thresholds).outputs[0].link = .plain ∧
      (after (.ackWaitFailure 1 allPins) thresholds).outputs[1].failures = 1 ∧
      (after (.upSilenceDrop 2 allPins) thresholds).outputs[2].dropLatch = true ∧
      (after (.coastLimit allPins) locked).feed.frameNumber = 0 := by decide +kernel

theorem witness_GroupThresholdFrameStarts :
    ((thresholds.groups[0].flip = .waiting ∨ thresholds.groups[0].flip = .settling) ∧ thresholds.groups[0].timeoutFrames ≠ 0 ∧
        thresholds.groups[0].timeoutFrames ≤ min 65535 (thresholds.groups[0].age + 1) ∧ thresholds.groups[0].force = false) ∧
      (thresholds.groups[1].flip = .settling ∧ thresholds.groups[1].settle ≤ 1 ∧ thresholds.groups[1].target = some .B ∧
        thresholds.groups[1].fadeFrames = 0) ∧
      (thresholds.groups[2].flip = .fading ∧ thresholds.groups[2].fadeLength < thresholds.groups[2].fadeStep + 1) ∧
      (thresholds.groups[3].phase = .captured ∧ thresholds.groups[3].holdLimit ≠ 0 ∧
        thresholds.groups[3].holdLimit ≤ min 65535 (thresholds.groups[3].holdAge + 1)) := by decide +kernel

theorem test_thresholds_of_groups :
    (after (.flipTimeout 0 allPins) thresholds).groups[0].flip = .idle ∧
      (after (.flipExecute 1 allPins) thresholds).groups[1].shown = .B ∧
      (after (.fadeComplete 2 allPins) thresholds).groups[2].shown = .B ∧
      (after (.holdLimitApplies 3 allPins) thresholds).groups[3].phase = .free ∧
      (after (.flipTimeout 1 allPins) thresholds).feed.frameNumber = 0 := by decide +kernel

theorem witness_PixelsSent :
    ∃ f o, (after (.frameStart allPins) locked).frame = some f ∧ f.outputs[(0 : Fin 4)] = some o ∧
      f.canvas = some ⟨⟨320, 240⟩, [], none⟩ ∧ o.standby = none ∧ (319 < o.rasterWidth ∧ 239 < o.rasterHeight) ∧
      o.x + 319 < 320 ∧ o.y + 239 < 240 ∧ 0 < 1 ∧ 255 ≤ 255 ∧ 4 ≤ 3 + 1 ∧ 8 ≤ 8 :=
  ⟨_, _, rfl, rfl, rfl, rfl, by decide +kernel⟩

/-- A price of three glyphs drawn in the box of slot 7, 200 wide and centred, so from column 98 of the box. -/
def threeGlyphs : PriceDraw := { glyphSet := 0, glyphs := [4, 20, 5], outcome := .drawn }

/-- The first, a middle and the last column of the sequence, the column on each side of it, and the box's last column. -/
theorem witness_PixelsSent_price :
    (readyGlyphSet someArt threeGlyphs.glyphSet).isSome = true ∧ threeGlyphs.outcome = .drawn ∧
      (readSlot slot7).align = .centre ∧ 98 = ((readSlot slot7).fieldW - sequenceWidth (List.replicate 29 1) threeGlyphs.glyphs) / 2 ∧
      (97 < 98 ∧ 98 + sequenceWidth (List.replicate 29 1) threeGlyphs.glyphs ≤ 101 ∧ 199 < (readSlot slot7).fieldW ∧ 7 < 8) ∧
      threeGlyphs.glyphs = [4] ++ 20 :: [5] ∧ 0 < (List.replicate 29 1).getD 20 0 ∧
      99 = 98 + sequenceWidth (List.replicate 29 1) [4] + 0 ∧ (readSlot slot7).fieldX = 10 ∧ (readSlot slot7).fieldY = 20 := by
  decide +kernel

/-- On black the ink (40, 40, 240) with the coverage of columns 4, 20 and 5 of the image; black beside the sequence. -/
theorem test_drawPrice :
    [97, 98, 99, 100, 101].map (fun col => drawPrice someArt (readSlot slot7) (some threeGlyphs) (10 + col) 27 black) =
        [black, ⟨1, 1, 4⟩, ⟨3, 3, 19⟩, ⟨1, 1, 5⟩, black] ∧
      drawPrice someArt (readSlot slot7) (some threeGlyphs) 109 28 ⟨7, 7, 7⟩ = ⟨7, 7, 7⟩ := by decide +kernel

/-- Card 5 over the fill of a cover, in the middle of slot 7 (300 by 300), and as a badge at (5, 6). -/
theorem test_cards :
    drawAction someArt (readSlot slot7) (.coverCard 4) 149 149 black = ⟨132, 4, 4⟩ ∧
      drawAction someArt (readSlot slot7) (.coverCard 4) 150 149 black = ⟨9, 9, 9⟩ ∧
      drawAction someArt (readSlot slot7) (.coverCard 4) 149 150 black = ⟨9, 9, 9⟩ ∧
      drawBadge someArt (readSlot slot7) (some 4) 5 6 black = ⟨128, 0, 0⟩ ∧
      drawBadge someArt (readSlot slot7) (some 4) 4 6 black = black := by decide +kernel

theorem test_pixels :
    State.outputPixel 0 319 239 (after (.frameStart allPins) locked) = some black ∧
      State.outputPixel 0 1920 0 (after (.frameStart allPins) locked) = none ∧
      State.marginByte 0 5 (after (.frameStart allPins) locked) = some 0xFF := by decide +kernel

theorem test_pixels_without_frame :
    State.outputPixel 3 1919 1079 State.reset = some black ∧ State.outputPixel 3 1920 0 State.reset = none ∧
      State.outputPixel 3 0 0 heldPart = none ∧ State.marginByte 3 0 State.reset = none := by decide +kernel

/-- R81: disabling an output takes effect for drawing from the next frame start. -/
theorem test_disabled_output_sends_nothing :
    let disabled := after (.outputPut (outputBytes 0 0 0 0 1920 1080 0 0)) (after (.frameStart allPins) locked)
    State.outputPixel 0 0 0 disabled = some black ∧
      State.outputPixel 0 0 0 (after (.frameStart allPins) disabled) = none := by decide +kernel

/-! ## STATUS and the return lane -/

theorem witness_StatusSnapshot : swapped.Takes ∧ (bytes [0]).length ≠ 0 := ⟨swapped_takes, by decide⟩

theorem test_status :
    (replyTo (.status []) swapped).map (fun r => (r.1, r.2.length, r.2.take 10)) =
      some (.done, 83, bytes [0, 0, 0, 0, 2, 0, 0, 0, 0, 1]) := by decide +kernel

/-- The part of section 10.6. -/
def arbiter : State :=
  { busy 2 with
    notices :=
      #v[⟨8, none⟩, ⟨8, some 0⟩, ⟨4, some 1⟩, ⟨4, some 4⟩, ⟨4, none⟩, ⟨4, none⟩, ⟨4, none⟩, ⟨4, none⟩, ⟨6, some 3⟩, ⟨4, none⟩,
        ⟨4, none⟩, ⟨4, none⟩, ⟨4, none⟩, ⟨4, none⟩]
    outputs :=
      #v[Output.reset 0, { Output.reset 1 with up := [⟨1, []⟩, ⟨2, []⟩] }, Output.reset 2, { Output.reset 3 with up := [⟨3, []⟩] }]
    lane := { classPointer := .relay, relayPointer := 2, sent := none } }

/-- The same after the severe notice. -/
def arbiterNext (c : ReturnClass) : State :=
  { arbiter with notices := arbiter.notices.set 1 ⟨8, none⟩, lane := { arbiter.lane with classPointer := c } }

theorem witness_ReturnSlotServes :
    arbiter.Locked ∧ arbiter.notices[(1 : Fin 14)].held = some 0 ∧ arbiter.notices[0].held = none ∧
      (arbiterNext .reply).notices[1].held = none ∧ (arbiterNext .reply).margin.replies ≠ [] ∧
      (arbiterNext .relay).outputs[3].up = [⟨3, []⟩] ∧ (arbiterNext .relay).lane.relayPointer + 1 = 3 ∧
      (arbiterNext .relay).outputs[2].up = [] ∧ (arbiterNext .notice).notices[(8 : Fin 14)].held = some 3 ∧
      (∀ j : Fin 14, 2 ≤ j.val → (arbiterNext .notice).notices[j].held ≠ none →
        (arbiterNext .notice).notices[j].priority < (arbiterNext .notice).notices[(8 : Fin 14)].priority ∨
          ((arbiterNext .notice).notices[j].priority = (arbiterNext .notice).notices[(8 : Fin 14)].priority ∧ 8 ≤ j)) :=
  ⟨⟨rfl, rfl⟩, by decide +kernel⟩

theorem test_returnSlot_severe :
    (after .returnSlot arbiter).lane.sent = some (withCheck (bytes [2, 2, 0, 9, 8, 0, 0, 0, 0, 0, 0, 0, 0])) := by decide +kernel

theorem test_returnSlot_classes :
    ((after .returnSlot (arbiterNext .relay)).lane.sent, (after .returnSlot (arbiterNext .relay)).lane.relayPointer) =
        (some (withCheck (bytes [3, 3, 3, 0])), 0) ∧
      (after .returnSlot (arbiterNext .notice)).lane.sent =
        some (withCheck (bytes [2, 9, 0, 9, 6, 0, 0, 0, 3, 0, 0, 0, 0])) ∧
      (after .returnSlot (arbiterNext .reply)).lane.sent = some (withCheck (bytes [1, 0x12, 0, 0])) := by decide +kernel

/-! ## The art store -/

/-- An ART OPEN body of a card. -/
def cardBytes (kind n w h : Nat) : List Byte := bytes [kind, n] ++ put16 w ++ put16 h ++ bytes [1, 2, 3]

/-- An ART OPEN body of a glyph set whose advances are all a. -/
def glyphBytes (n h a : Nat) : List Byte := bytes [0, n] ++ put16 h ++ List.replicate 29 (BitVec.ofNat 8 a)

/-- An OPEN card of 1 by 1 pixel with two of its four bytes. -/
def openCard : ArtEntry := { ready := false, shape := .card 1 1 ⟨1, 2, 3⟩, content := [0xFF, 0] }

/-- A part that is uploading card 7, at place 10. -/
def uploading : State := { locked with art := [(10, openCard)] }

theorem uploading_takes : uploading.Takes := ⟨⟨rfl, rfl⟩, by decide⟩

theorem artOk_uploading : ArtOk uploading.art := by
  refine ⟨by decide, fun e he => ?_, fun e he f hf _ _ => ?_, by decide +kernel⟩
  · rw [show uploading.art = [(10, openCard)] from rfl, List.mem_singleton] at he
    subst he
    exact ⟨by decide, ⟨by decide, by decide, by decide⟩, show 4 ≤ 10 by decide⟩
  · rw [show uploading.art = [(10, openCard)] from rfl, List.mem_singleton] at he hf
    rw [he, hf]

theorem test_crc32 : crc32 (bytes [0x31, 0x32, 0x33, 0x34, 0x35, 0x36, 0x37, 0x38, 0x39]) = 0xCBF43926 := by decide +kernel

theorem witness_ArtUploads_badLength :
    (∀ b ∈ [bytes [], bytes [0], bytes [2], cardBytes 0 0 1 1, (cardBytes 1 1 1 1).take 8, (glyphBytes 0 8 1).take 32],
      replyTo (.artOpen b) locked = some (if b.length = 1 ∨ b.length ≠ 2 then .badLength else .badField, [])) ∧
      (∀ n ∈ [6, 231], replyTo (.artWrite (List.replicate n 0)) locked = some (.badLength, [])) ∧
      (∀ n ∈ [5, 7], replyTo (.artClose (List.replicate n 0)) locked = some (.badLength, [])) := by decide +kernel

theorem witness_ArtUploads_badField :
    ∀ b ∈ [cardBytes 2 0 1 1, glyphBytes 4 8 1, cardBytes 1 0 1 1, cardBytes 1 64 1 1, glyphBytes 0 7 1, glyphBytes 0 257 1,
        glyphBytes 3 8 0, cardBytes 1 1 0 1, cardBytes 1 1 1025 1, cardBytes 1 63 1 0, cardBytes 1 63 1 1025],
      replyTo (.artOpen b) locked = some (.badField, []) := by decide +kernel

theorem witness_ArtUploads :
    uploading.Takes ∧ ArtOk uploading.art ∧ (10, openCard) ∈ uploading.art ∧ openCard.ready = false ∧
      (u8 (cardBytes 1 7 1 1) 0 = 1 ∧ u8 (cardBytes 1 7 1 1) 1 + 3 = 10) ∧ captureUses uploading.groups 10 = false ∧
      Table.find? uploading.art 10 = some openCard ∧ openCard.content.length ≠ openCard.shape.size ∧
      (∀ e ∈ locked.art, e.1 ≠ 10 → e.2.ready = true) ∧ openCard.shape.blocks ≤ freeBlocks locked.art :=
  ⟨uploading_takes, artOk_uploading, by decide, rfl, by decide +kernel, by decide +kernel, rfl, by decide +kernel,
    by decide, by decide +kernel⟩

theorem test_artOpen :
    replyTo (.artOpen (cardBytes 1 7 100 80)) locked = some (.done, put32 32000 ++ put16 8 ++ put16 4088) ∧
      replyTo (.artOpen (cardBytes 1 8 1 1)) uploading = some (.wrongState, bytes [1, 7]) := by decide +kernel

theorem test_artWrite :
    replyTo (.artWrite (bytes [1, 7, 0, 0, 0, 2, 9, 9])) uploading = some (.done, put32 4) ∧
      replyTo (.artWrite (bytes [1, 7, 0, 0, 0, 1, 9])) uploading = some (.wrongState, put32 2) ∧
      replyTo (.artWrite (bytes [1, 7, 0, 0, 0, 2, 9, 9, 9])) uploading = some (.badField, []) := by decide +kernel

theorem test_artClose :
    replyTo (.artClose (bytes [1, 7, 0, 0, 0, 0])) uploading = some (.badCheck, put32 2) ∧
      (after (.artClose (bytes [1, 7, 0, 0, 0, 0])) uploading).art = [] ∧
      replyTo (.artClose (bytes [1, 7, 0, 0, 0, 0])) locked = some (.wrongState, []) := by decide +kernel

theorem witness_ArtDropAndGet :
    uploading.Takes ∧ (bytes [1]).length ≠ 2 ∧
      (∀ b ∈ [bytes [2, 0], bytes [0, 4], bytes [1, 0], bytes [1, 64]],
        1 < u8 b 0 ∨ (u8 b 0 = 0 ∧ 3 < u8 b 1) ∨ (u8 b 0 = 1 ∧ (u8 b 1 = 0 ∨ 63 < u8 b 1))) ∧
      Table.find? uploading.art 66 = none ∧ Table.find? uploading.art 10 = some openCard ∧ ArtOk uploading.art ∧
      captureUses (#v[{ captured with capture := some [(0, { orphanView (readSlot slot7) with badge := some 6 })] },
        Group.reset, Group.reset, Group.reset]) 10 = true :=
  ⟨uploading_takes, by decide, by decide +kernel, by decide, by decide +kernel, artOk_uploading, by decide +kernel⟩

theorem test_artGet_and_drop :
    replyTo (.artGet (bytes [1, 7])) uploading =
        some (.done, bytes [1, 7, 1, 0, 0, 0, 0, 4, 0, 0, 0, 2, 0, 1, 0, 1, 0, 1, 1, 2, 3]) ∧
      replyTo (.artDrop (bytes [1, 7])) uploading = some (.done, put16 4096) ∧
      replyTo (.artDrop (bytes [0, 0])) uploading = some (.noEntry, []) := by decide +kernel

/-! ## Invariants: a state that meets all of them, and a step from it -/

theorem witness_ResetSatisfiesInvariants : State.reset = State.reset := rfl

theorem witness_StepKeepsTables :
    ∃ t, step { saturday with pending := [.secondTick] } = .next t ∧ ItemsOk saturday.items ∧ SlotsOk saturday.slots ∧
      ScheduleOk saturday.schedule ∧ saturday.clock.Ok ∧ ArtOk saturday.art ∧ CapturesReady saturday := by
  refine ⟨_, rfl, ⟨by decide, by decide, fun e he => ?_⟩, ⟨by decide, fun e he => ?_⟩, week_ok, ⟨by decide, by decide⟩, artOk_nil,
    fun place h => ?_⟩
  · exact absurd he (by simp [saturday, grouped, locked, State.reset])
  · exact absurd he (by simp [saturday, grouped, locked, State.reset])
  · have e : ∀ p, captureUses saturday.groups p = false := fun p => rfl
    rw [e] at h
    exact absurd h (by decide)

theorem groupOk_reset : Group.reset.Ok := by
  simp [Group.Ok, Group.FlipOk, Group.HoldOk, Group.RangeOk, Group.reset]
  rfl

theorem witness_StepKeepsGroupsAndLines :
    ∃ t, step { locked with pending := [.frameStart allPins] } = .next t ∧ (∀ g : Fin 4, locked.groups[g].Ok) ∧
      (∀ i : Fin 8, locked.lines[i].Ok) ∧ LineHoldsOk locked.lines locked.groups := by
  refine ⟨_, rfl, fun g => ?_, fun i => ?_, fun g => ?_⟩
  · have e : locked.groups[g] = Group.reset := by revert g; decide +kernel
    rw [e]
    exact groupOk_reset
  · have e : locked.lines[i] = Line.reset := by revert i; decide +kernel
    rw [e]
    exact ⟨by decide, by decide, by decide⟩
  · revert g
    decide +kernel

theorem witness_StepKeepsLinksAndQueues :
    ∃ t, step { locked with pending := [.returnSlot] } = .next t ∧
      (∀ k : Fin 4, locked.outputs[k].LinkOk ∧ locked.outputs[k].WindowOk ∧ locked.outputs[k].QueuesOk) ∧ locked.margin.Ok ∧
      NoticesOk locked.notices := by
  refine ⟨_, rfl, ?_, ?_, ?_⟩
  · unfold Output.LinkOk Output.WindowOk Output.QueuesOk
    decide +kernel
  · exact ⟨by decide, by decide⟩
  · unfold NoticesOk
    decide +kernel

theorem witness_StepKeepsFeedAndReset :
    ∃ t, step { heldPart with pending := [.signalFound] } = .next t ∧ heldPart.feed.Ok heldPart.resetPin ∧
      HeldAtReset { heldPart with pending := [.signalFound] } := by
  refine ⟨_, rfl, ?_, fun _ => by decide +kernel⟩
  have e : heldPart.feed = { Feed.reset with signal := true } := by decide +kernel
  have p : heldPart.resetPin = true := by decide +kernel
  rw [e, p]
  unfold Feed.Ok
  simp [Feed.reset, Training.Ok]

end Sys2Proof.Tests
end

section
/-! PROOFS. The tables kept by key (R1, R36, R116, R179) and the captures of the groups (R57): what keeps each of them legal. -/

namespace Sys2Proof.Machine

/-! ## Items (R1, R3) -/

/-- R3: the prices of an item are prices. -/
def Item.PricesOk (i : Item) : Prop := (∀ p, i.priceA = some p → p ≤ 9999999) ∧ ∀ p, i.priceB = some p → p ≤ 9999999

/-- The item under a code of a legal table. -/
theorem ItemsOk.of_find? {items : List (Nat × Item)} (ok : ItemsOk items) {code : Nat} {i : Item}
    (found : Table.find? items code = some i) : 1 ≤ code ∧ code ≤ 65535 ∧ i.PricesOk := ok.2.2 _ (Table.find?_some_mem found)

theorem ItemsOk.insert {items : List (Nat × Item)} (ok : ItemsOk items) {code : Nat} {i : Item} (low : 1 ≤ code)
    (high : code ≤ 65535) (prices : i.PricesOk) (room : Table.find? items code = none → items.length < 1024) :
    ItemsOk (Table.insert items code i) := by
  obtain ⟨rising, size, legal⟩ := ok
  refine ⟨Table.rising_insert rising code i, ?_, fun e he => ?_⟩
  · rw [Table.length_insert rising]
    split
    · rename_i new
      exact room new
    · exact size
  · rcases Table.mem_insert he with rfl | old
    · exact ⟨low, high, prices⟩
    · exact legal e old

theorem ItemsOk.erase {items : List (Nat × Item)} (ok : ItemsOk items) (code : Nat) : ItemsOk (Table.erase items code) :=
  ⟨Table.rising_erase ok.1 code, (List.length_filter_le _ _).trans ok.2.1, fun e he => ok.2.2 e (Table.mem_erase.mp he).1⟩

/-- R3: the price of a field that passes the check is a price. -/
theorem le_of_priceOf {n p : Nat} (good : priceGood n = true) (h : priceOf n = some p) : p ≤ 9999999 := by
  simp only [priceGood, decide_eq_true_eq] at good
  unfold priceOf at h
  split at h
  · cases h
  · cases h
    exact good.resolve_right ‹_›

/-- R15: writing a price that passes the check keeps the prices of an item prices. -/
theorem Item.PricesOk.setPrice {i : Item} (ok : i.PricesOk) (selector : Nat) {n : Nat} (good : priceGood n = true) :
    (i.setPrice selector (priceOf n)).PricesOk := by
  refine ⟨fun p => ?_, fun p => ?_⟩ <;> simp only [Item.setPrice] <;> split
  · exact ok.1 p
  · exact le_of_priceOf good
  · exact ok.2 p
  · exact le_of_priceOf good

/-- R14: the checks that a pair passes. -/
theorem pairFault_eq_none {items : List (Nat × Item)} {earlier : List Nat} {pair : Nat × Nat} :
    pairFault items earlier pair = none ↔
      Table.find? items pair.1 ≠ none ∧ pair.1 ≠ 0 ∧ priceGood pair.2 = true ∧ pair.1 ∉ earlier := by
  unfold pairFault
  by_cases absent : Table.find? items pair.1 = none ∨ pair.1 = 0
  · rw [if_pos absent]
    tauto
  · rw [if_neg absent]
    cases good : priceGood pair.2 <;> by_cases twice : pair.1 ∈ earlier <;> simp [twice]; tauto

/-- R14: where no pair fails a check, the price field of each is good. -/
theorem priceGood_of_firstPairFault {items : List (Nat × Item)} {pairs : List (Nat × Nat)} {index : Nat} {earlier : List Nat}
    (pass : firstPairFault items index earlier pairs = none) {pair : Nat × Nat} (h : pair ∈ pairs) :
    priceGood pair.2 = true := by
  induction pairs generalizing index earlier with
  | nil => cases h
  | cons first rest ih =>
    simp only [firstPairFault] at pass
    split at pass
    · cases pass
    · rename_i clean
      rcases List.mem_cons.mp h with rfl | later
      · exact (pairFault_eq_none.mp clean).2.2.1
      · exact ih pass later

theorem ItemsOk.applyPairs {items : List (Nat × Item)} (ok : ItemsOk items) (selector : Nat) {pairs : List (Nat × Nat)}
    (good : ∀ pair ∈ pairs, priceGood pair.2 = true) : ItemsOk (applyPairs selector pairs items) := by
  obtain ⟨rising, size, legal⟩ := ok
  rw [applyPairs_eq]
  refine ⟨Table.rising_map rising (fun k v => ((Table.find? pairs k).map (fun n => v.setPrice selector (priceOf n))).getD v),
    by simpa using size, fun e he => ?_⟩
  obtain ⟨old, mem, rfl⟩ := List.mem_map.mp he
  obtain ⟨low, high, prices⟩ := legal old mem
  refine ⟨low, high, ?_⟩
  change Item.PricesOk (Option.getD _ _)
  cases named : Table.find? pairs old.1 with
  | none => exact prices
  | some n => exact Item.PricesOk.setPrice prices selector (good _ (Table.find?_some_mem named))

/-! ## Slots (R36, R60, R61) -/

/-- R40, R41: a slot bound to a record whose watch frames are not 0, or freed, is legal. -/
theorem Slot.ok_rebind {record : Option SlotRecord} (frames : ∀ r, record = some r → 1 ≤ r.watchFrames) (t : Slot) :
    (t.rebind record).Ok := by
  refine ⟨fun _ => ⟨rfl, rfl, rfl⟩, fun r hr => ?_⟩
  have pos := frames r hr
  refine ⟨pos, Nat.zero_le _, ?_, fun _ => ⟨rfl, rfl⟩⟩
  simp only [Slot.rebind, Bool.false_eq_true, false_iff]
  omega

/-- R34: the recorded fit outcomes are free. -/
theorem Slot.Ok.withFit {t : Slot} (ok : t.Ok) (fit : Vector FitOutcome 4) : ({ t with fit := fit } : Slot).Ok := ok

/-- R61: so is the loss of the sample. -/
theorem Slot.Ok.withoutSample {t : Slot} (ok : t.Ok) : ({ t with sample := none } : Slot).Ok := by
  obtain ⟨vacant, bound⟩ := ok
  refine ⟨fun h => ⟨(vacant h).1, (vacant h).2.1, rfl⟩, fun r hr => ?_⟩
  obtain ⟨pos, top, flag, off⟩ := bound r hr
  exact ⟨pos, top, flag, fun h => ⟨(off h).1, rfl⟩⟩

/-- R61: one evaluation of a watched slot. -/
theorem Slot.Ok.evaluated {t : Slot} (ok : t.Ok) {r : SlotRecord} (hr : t.record = some r) (watched : r.watchMode ≠ .off)
    (holds : Bool) (seen : Sample) : (t.evaluated r.watchFrames holds seen).Ok := by
  obtain ⟨pos, top, flag, -⟩ := ok.2 r hr
  have same : (t.evaluated r.watchFrames holds seen).record = some r := by
    unfold Slot.evaluated
    split <;> exact hr
  refine ⟨fun vacant => absurd (same.symm.trans vacant) (by simp), fun r' hr' => ?_⟩
  rw [same] at hr'
  cases hr'
  refine ⟨pos, ?_, ?_, fun off => absurd off watched⟩
  · unfold Slot.evaluated
    dsimp only
    split
    · dsimp only
      split <;> omega
    · exact Nat.zero_le _
  · unfold Slot.evaluated
    dsimp only
    split
    · by_cases reached : t.counter = r.watchFrames
      · simp [reached]
      · by_cases next : t.counter + 1 = r.watchFrames
        · simp [reached, next]
        · simpa [reached, next] using fun h => reached (flag.mp h)
    · simp only [Bool.false_eq_true, false_iff]
      omega

/-- R59 to R61: the photo watch of one slot. -/
theorem Slot.Ok.watch {t : Slot} (ok : t.Ok) (p : Picture) : (t.watch p).Ok := by
  unfold Slot.watch
  split
  · exact ok
  · rename_i r hr
    split
    · exact ok
    · rename_i mode
      exact ok.evaluated hr (by simp [mode]) _ _
    · rename_i mode
      split
      · refine ⟨fun vacant => by simp [hr] at vacant, fun r' hr' => ?_⟩
        obtain ⟨pos, top, flag, -⟩ := ok.2 r' hr'
        rw [show r' = r from Option.some.inj (hr'.symm.trans hr)] at *
        exact ⟨pos, top, flag, fun off => by simp [mode] at off⟩
      · exact ok.evaluated hr (by simp [mode]) _ _

theorem SlotsOk.putSlot {s : State} (ok : SlotsOk s.slots) {n : Nat} (hn : n < 256) {v : Slot} (hv : v.Ok) :
    SlotsOk (s.putSlot n v).slots := by
  obtain ⟨rising, legal⟩ := ok
  refine ⟨rising_putSlot rising n v, fun e he => ?_⟩
  unfold State.putSlot at he
  dsimp only at he
  split at he
  · exact legal e (Table.mem_erase.mp he).1
  · rename_i listed
    rcases Table.mem_insert he with rfl | old
    · exact ⟨hn, listed, hv⟩
    · exact legal e old

/-- A change of every slot that keeps each one legal. -/
theorem SlotsOk.mapSlots {slots : List (Nat × Slot)} (ok : SlotsOk slots) {f : Nat → Slot → Slot}
    (keeps : ∀ n t, t.Ok → (f n t).Ok) : SlotsOk (mapSlots f slots) := by
  refine ⟨rising_mapSlots ok.1 f, fun e he => ?_⟩
  obtain ⟨listed, old, mem, eq⟩ := mem_mapSlots.mp he
  obtain ⟨low, -, legal⟩ := ok.2 _ mem
  exact ⟨low, listed, eq ▸ keeps e.1 old legal⟩

/-! ## Schedule (R116, R117) -/

/-- R117: conflicting is mutual. -/
theorem conflicts_comm (e f : Entry) : e.conflicts f = f.conflicts e := by
  simp only [Entry.conflicts, BitVec.and_comm, Bool.beq_comm]

/-- R116: no two entries of a legal schedule conflict. -/
theorem ScheduleOk.no_conflict {schedule : List (Nat × Entry)} (ok : ScheduleOk schedule) {e f : Nat × Entry} (he : e ∈ schedule)
    (hf : f ∈ schedule) (ne : e ≠ f) : e.2.conflicts f.2 = false := by
  have symm : Std.Symm (fun e f : Nat × Entry => e.2.conflicts f.2 = false) :=
    ⟨fun a b h => (conflicts_comm b.2 a.2).trans h⟩
  exact List.Pairwise.forall ok.2.2 he hf ne

/-- R117: the entries that the check of SCHEDULE PUT clears. -/
theorem conflictWith_none {n : Nat} {e : Entry} {schedule : List (Nat × Entry)} (clear : conflictWith n e schedule = none)
    {f : Nat × Entry} (hf : f ∈ schedule) (other : f.1 ≠ n) : e.conflicts f.2 = false := by
  simp only [conflictWith, Option.map_eq_none_iff, List.find?_eq_none] at clear
  simpa [other] using clear f hf

theorem ScheduleOk.insert {schedule : List (Nat × Entry)} (ok : ScheduleOk schedule) {n : Nat} {e : Entry} (hn : n < 32)
    (time : e.time < 86400) (days : e.days ≠ 0) (groups : e.groups ≠ 0) (clear : conflictWith n e schedule = none) :
    ScheduleOk (Table.insert schedule n e) := by
  have rising := Table.rising_insert ok.1 n e
  refine ⟨rising, fun f hf => ?_, List.Nodup.pairwise_of_forall_ne (rising.imp (fun lt eq => ?_)) fun f hf g hg ne => ?_⟩
  · rcases Table.mem_insert hf with rfl | old
    · exact ⟨hn, time, days, groups⟩
    · exact ok.2.1 f old
  · simp [eq] at lt
  · rcases Table.mem_insert_of_rising ok.1 hf with rfl | ⟨hf, nf⟩ <;>
      rcases Table.mem_insert_of_rising ok.1 hg with rfl | ⟨hg, ng⟩
    · exact absurd rfl ne
    · exact conflictWith_none clear hg ng
    · exact (conflicts_comm _ _).trans (conflictWith_none clear hf nf)
    · exact ok.no_conflict hf hg ne

theorem ScheduleOk.erase {schedule : List (Nat × Entry)} (ok : ScheduleOk schedule) (n : Nat) :
    ScheduleOk (Table.erase schedule n) :=
  ⟨Table.rising_erase ok.1 n, fun e he => ok.2.1 e (Table.mem_erase.mp he).1, ok.2.2.sublist List.filter_sublist⟩

/-! ## Art (R179) -/

/-- The entry at a place of a legal store. -/
theorem ArtOk.of_find? {art : Art} (ok : ArtOk art) {place : Nat} {e : ArtEntry} (found : Table.find? art place = some e) :
    place < 67 ∧ e.Ok ∧ e.shape.OkAt place := ok.2.1 _ (Table.find?_some_mem found)

theorem ArtOk.insert {art : Art} (ok : ArtOk art) {place : Nat} {e : ArtEntry} (hp : place < 67) (legal : e.Ok)
    (suits : e.shape.OkAt place) (alone : e.ready = false → ∀ f ∈ art, f.2.ready = false → f.1 = place)
    (room : usedBlocks (Table.insert art place e) ≤ 4096) : ArtOk (Table.insert art place e) := by
  obtain ⟨rising, entries, oneOpen, -⟩ := ok
  refine ⟨Table.rising_insert rising place e, fun f hf => ?_, fun f hf g hg openF openG => ?_, room⟩
  · rcases Table.mem_insert hf with rfl | old
    · exact ⟨hp, legal, suits⟩
    · exact entries f old
  · rcases Table.mem_insert hf with rfl | hf <;> rcases Table.mem_insert hg with rfl | hg
    · rfl
    · exact (alone openF g hg openG).symm
    · exact alone openG f hf openF
    · exact oneOpen f hf g hg openF openG

theorem ArtOk.erase {art : Art} (ok : ArtOk art) (place : Nat) : ArtOk (Table.erase art place) := by
  obtain ⟨rising, entries, oneOpen, room⟩ := ok
  have freed := usedBlocks_erase rising place
  refine ⟨Table.rising_erase rising place, fun f hf => entries f (Table.mem_erase.mp hf).1, fun f hf g hg => ?_, by omega⟩
  exact oneOpen f (Table.mem_erase.mp hf).1 g (Table.mem_erase.mp hg).1

/-- R179: an entry rewritten with the same shape takes the same blocks. -/
theorem usedBlocks_insert_same {art : Art} (rising : Table.Rising art) {place : Nat} {old e : ArtEntry}
    (found : Table.find? art place = some old) (same : e.shape = old.shape) :
    usedBlocks (Table.insert art place e) = usedBlocks art := by
  have total := usedBlocks_insert rising place e
  rw [found, same] at total
  simpa using total

/-- R182: the OPEN entry of a place is the one entry that is OPEN. -/
theorem openAt_eq_some {art : Art} {place : Nat} {e : ArtEntry} :
    openAt art place = some e ↔ Table.find? art place = some e ∧ e.ready = false := by
  unfold openAt
  cases Table.find? art place with
  | none => simp
  | some f => cases h : f.ready <;> simp [h] <;> rintro rfl <;> simp [h]

/-- R181: where no other entry is OPEN, the named one is the only one that can be. -/
theorem otherOpen_none {art : Art} {place : Nat} (h : otherOpen art place = none) {f : Nat × ArtEntry} (hf : f ∈ art)
    (isOpen : f.2.ready = false) : f.1 = place := by
  simp only [otherOpen, Option.map_eq_none_iff, List.find?_eq_none] at h
  simpa [isOpen] using h f hf

/-! ## Captures (R57) -/

/-- R57: every art entry that a captured view draws from is READY. -/
def SlotView.DrawsReady (art : Art) (v : SlotView) : Prop :=
  ∀ place, v.uses place = true → (readyEntry art place).isSome = true

/-- R57: the same of a group's capture. -/
def Group.CaptureReady (art : Art) (g : Group) : Prop :=
  ∀ view, g.capture = some view → ∀ e ∈ view, e.2.DrawsReady art

/-- R57, R184: what the captures use, group by group. -/
theorem captureUses_iff (groups : Vector Group 4) (place : Nat) :
    captureUses groups place = true ↔
      ∃ (g : Fin 4) (view : FrameView), groups[g].capture = some view ∧ ∃ e ∈ view, e.2.uses place = true := by
  simp only [captureUses, List.any_eq_true, Vector.mem_toList_iff]
  constructor
  · rintro ⟨x, hx, e, he, uses⟩
    obtain ⟨i, hi, rfl⟩ := Vector.getElem_of_mem hx
    cases taken : groups[i].capture with
    | none => simp [taken] at he
    | some view => exact ⟨⟨i, hi⟩, view, taken, e, by simpa [taken] using he, uses⟩
  · rintro ⟨g, view, taken, e, he, uses⟩
    exact ⟨groups[g], Vector.getElem_mem _, e, by rw [taken]; exact he, uses⟩

theorem capturesReady_iff (s : State) : CapturesReady s ↔ ∀ g : Fin 4, s.groups[g].CaptureReady s.art := by
  simp only [CapturesReady, captureUses_iff]
  constructor
  · intro ready g view taken e he place uses
    exact ready place ⟨g, view, taken, e, he, uses⟩
  · rintro ready place ⟨g, view, taken, e, he, uses⟩
    exact ready g view taken e he place uses

/-- A group whose capture is as it was, or gone, draws its capture from READY art as before. -/
theorem Group.CaptureReady.of_capture {art : Art} {g h : Group} (ready : g.CaptureReady art)
    (kept : h.capture = none ∨ h.capture = g.capture) : h.CaptureReady art := by
  intro view taken
  rcases kept with gone | same
  · simp [gone] at taken
  · exact ready view (same ▸ taken)

/-! ## Views draw from READY art (R31, R46, R53) -/

theorem isSome_readyEntry_of_glyphSet {art : Art} {n : Fin 4} (h : (readyGlyphSet art n).isSome = true) :
    (readyEntry art (glyphPlace n)).isSome = true := by
  obtain ⟨⟨height, advances, image⟩, found⟩ := Option.isSome_iff_exists.mp h
  exact Option.isSome_iff_exists.mpr ⟨_, readyEntry_eq_some.mpr ⟨readyGlyphSet_eq_some.mp found, rfl⟩⟩

theorem isSome_readyEntry_of_card {art : Art} {k : Fin 63} (h : (readyCard art k).isSome = true) :
    (readyEntry art (cardPlace k)).isSome = true := by
  obtain ⟨⟨width, height, fill, pixels⟩, found⟩ := Option.isSome_iff_exists.mp h
  exact Option.isSome_iff_exists.mpr ⟨_, readyEntry_eq_some.mpr ⟨readyCard_eq_some.mp found, rfl⟩⟩

/-- R57: a view draws from READY art if its price, its cover and its badge do. -/
theorem SlotView.drawsReady_of_parts {art : Art} {v : SlotView}
    (price : ∀ p, v.price = some p → p.outcome.draws = true → (readyGlyphSet art p.glyphSet).isSome = true)
    (cover : ∀ k, v.action = .coverCard k → (readyCard art k).isSome = true)
    (badge : ∀ k, v.badge = some k → (readyCard art k).isSome = true) : v.DrawsReady art := by
  intro place uses
  simp only [SlotView.uses, Bool.or_eq_true] at uses
  rcases uses with (uses | uses) | uses <;> split at uses
  · rename_i p hp
    simp only [Bool.and_eq_true, beq_iff_eq] at uses
    exact uses.2 ▸ isSome_readyEntry_of_glyphSet (price p hp uses.1)
  · cases uses
  · rename_i k hk
    exact beq_iff_eq.mp uses ▸ isSome_readyEntry_of_card (cover k hk)
  · cases uses
  · rename_i k hk
    exact beq_iff_eq.mp uses ▸ isSome_readyEntry_of_card (badge k hk)
  · cases uses

/-- R31: a price is drawn from a READY glyph set, or not at all. -/
theorem drawnPrice_ready {s : State} {r : SlotRecord} {i : Item} {p : Nat}
    (draws : (drawnPrice s r i p).outcome.draws = true) :
    (readyGlyphSet s.art (drawnPrice s r i p).glyphSet).isSome = true := by
  unfold drawnPrice at draws ⊢
  split
  · rename_i missing
    simp [missing, FitOutcome.draws] at draws
  · rename_i g found
    simp [found]

/-- R51: a cover drawn as its card has a READY card. -/
theorem drawnAction_ready {art : Art} {r : SlotRecord} {a : Action} {k : Fin 63} (h : drawnAction art r a = .coverCard k) :
    (readyCard art k).isSome = true := by
  cases a with
  | keep => cases h
  | dim level => cases h
  | cover card =>
    simp only [drawnAction] at h
    split at h
    · rename_i ready
      cases h
      exact ready
    · cases h

/-- R53: a badge drawn has a READY card. -/
theorem drawnBadge_ready {art : Art} {i : Item} {k : Fin 63} (h : drawnBadge art i = some k) :
    (readyCard art k).isSome = true := by
  unfold drawnBadge at h
  split at h
  · cases h
  · split at h
    · rename_i ready
      cases h
      exact ready
    · cases h

theorem treatedView_drawsReady (s : State) (kind : ViewKind) (r : SlotRecord) (t : Treatment) {price : Option PriceDraw}
    (h : ∀ p, price = some p → p.outcome.draws = true → (readyGlyphSet s.art p.glyphSet).isSome = true) :
    (treatedView s kind r t price).DrawsReady s.art := by
  refine SlotView.drawsReady_of_parts (fun p hp => ?_) (fun k hk => drawnAction_ready hk) (fun k hk => by cases hk)
  simp only [treatedView] at hp
  split at hp
  · cases hp
  · exact h p hp

theorem presentView_drawsReady (s : State) (missing : Bool) (r : SlotRecord) (i : Item) (p : Nat) :
    (presentView s missing r i p).DrawsReady s.art := by
  have price : ∀ d, some (drawnPrice s r i p) = some d → d.outcome.draws = true →
      (readyGlyphSet s.art d.glyphSet).isSome = true := by
    rintro d ⟨⟩
    exact drawnPrice_ready
  unfold presentView
  split
  · exact treatedView_drawsReady s _ r _ price
  · split
    · exact treatedView_drawsReady s _ r _ price
    · exact SlotView.drawsReady_of_parts price (fun k hk => by cases hk) (fun k hk => drawnBadge_ready hk)

theorem boundView_drawsReady (s : State) (bank : Bank) (missing : Bool) (r : SlotRecord) :
    (boundView s bank missing r).DrawsReady s.art := by
  unfold boundView
  split
  · exact SlotView.drawsReady_of_parts (fun p hp => by cases hp) (fun k hk => by cases hk) (fun k hk => by cases hk)
  · split
    · exact treatedView_drawsReady s _ r _ (fun p hp => by cases hp)
    · exact presentView_drawsReady s missing r _ _

/-- R48 to R54: everything in a frame view is drawn from READY art. -/
theorem frameView_drawsReady (s : State) (bank : Bank) {e : Nat × SlotView} (h : e ∈ frameView s bank) :
    e.2.DrawsReady s.art := by
  obtain ⟨t, -, view⟩ := (mem_frameView s bank e.1 e.2).mp h
  obtain ⟨r, -, eq⟩ := Option.map_eq_some_iff.mp view
  exact eq ▸ boundView_drawsReady s bank t.missing r

/-! ## Captures through the work of a group (R84, R89, R98, R100) -/

@[simp] theorem request_capture (b : Bank) (g : Group) : (g.request b).1.capture = g.capture := by rw [request_frame]

/-- R98: a change of the hold sources keeps the capture or drops it. -/
theorem sourcesChanged_capture (g n : Group) :
    (g.sourcesChanged n).capture = none ∨ (g.sourcesChanged n).capture = n.capture := by
  unfold Group.sourcesChanged Group.gainSource Group.loseSource Group.beginHold
  repeat' split
  all_goals simp

/-- R67, R72: so does the landing of lines. -/
theorem reline_capture (touched holding : LineSet) (g : Group) :
    (g.reline touched holding).capture = none ∨ (g.reline touched holding).capture = g.capture :=
  sourcesChanged_capture g (g.relineSets touched holding)

/-- R105: so do HOLD and RELEASE. -/
theorem setCommandHold_capture (f : Bool) (g : Group) :
    (g.setCommandHold f).capture = none ∨ (g.setCommandHold f).capture = g.capture :=
  sourcesChanged_capture g { g with commandHold := f }

@[simp] theorem flipStage_capture (ready : Bool) (g : Group) : (g.flipStage ready).1.capture = g.capture := by
  rw [flipStage_frame]

/-- R100 to R104: the second stage takes the live view as the capture, drops it or keeps it. -/
theorem holdStage_capture (live : FrameView) (g : Group) :
    (g.holdStage live).capture = some live ∨ (g.holdStage live).capture = none ∨ (g.holdStage live).capture = g.capture := by
  unfold Group.holdStage Group.endByLimit Group.goLive
  repeat' split
  all_goals simp

@[simp] theorem takePending_capture (g : Group) : g.takePending.capture = g.capture := by
  unfold Group.takePending
  repeat' split
  all_goals simp

/-- R70: flip requests, one after another, keep the capture. -/
theorem foldl_request_capture {ι : Type} (target : ι → Bank) (l : List ι) (g : Group) :
    (l.foldl (fun x i => (Group.request (target i) x).1) g).capture = g.capture := by
  induction l generalizing g with
  | nil => rfl
  | cons i l ih => rw [List.foldl_cons, ih, request_capture]

/-- R109: the requests of schedule entries keep every capture. -/
theorem fireEntries_capture (entries : List (Nat × Entry)) (groups : Vector Group 4) (g : Fin 4) :
    (fireEntries entries groups)[g].capture = groups[g].capture := by
  induction entries generalizing groups with
  | nil => rfl
  | cons e rest ih =>
    refine (ih (sendFlip e.2.groups e.2.target groups)).trans ?_
    rw [sendFlip_getElem]
    split <;> simp

/-- R89, R100: after all its work of a frame start a group draws its capture from READY art. -/
theorem groupAfter_captureReady {s : State} {g : Fin 4} (ready : s.groups[g].CaptureReady s.art) :
    (s.groupAfter g).CaptureReady s.art := by
  intro view taken
  simp only [State.groupAfter, takePending_capture] at taken
  rcases holdStage_capture (frameView s (s.flipped g).1.shown) (s.flipped g).1 with live | gone | same
  · rw [live] at taken
    cases taken
    exact fun e he => frameView_drawsReady s _ he
  · simp [gone] at taken
  · rw [same, State.flipped, flipStage_capture] at taken
    exact ready view taken

end Sys2Proof.Machine
end

section
/-! PROOFS. O57: every command, every event and so every step keeps the tables legal (chapter 95). -/

namespace Sys2Proof.Machine

/-- The invariant of the tables: items and prices, slots and photo watch, schedule, clock, art, and READY art under every
capture. -/
structure State.TablesOk (s : State) : Prop where
  items : ItemsOk s.items
  slots : SlotsOk s.slots
  schedule : ScheduleOk s.schedule
  clock : s.clock.Ok
  art : ArtOk s.art
  captures : CapturesReady s

/-- A state with legal slots, the other tables as they were, and READY art under the capture of each group. -/
theorem State.TablesOk.of_slots_groups {s t : State} (ok : s.TablesOk) (slots : SlotsOk t.slots)
    (groups : ∀ g : Fin 4, t.groups[g].CaptureReady s.art) (items : t.items = s.items)
    (schedule : t.schedule = s.schedule) (clock : t.clock = s.clock) (art : t.art = s.art) : t.TablesOk where
  items := items ▸ ok.items
  slots := slots
  schedule := schedule ▸ ok.schedule
  clock := clock ▸ ok.clock
  art := art ▸ ok.art
  captures := (capturesReady_iff t).mpr (art ▸ groups)

/-- A state with the same tables, and READY art under the capture of each group. -/
theorem State.TablesOk.of_groups {s t : State} (ok : s.TablesOk)
    (groups : ∀ g : Fin 4, t.groups[g].CaptureReady s.art) (items : t.items = s.items := by simp)
    (slots : t.slots = s.slots := by simp) (schedule : t.schedule = s.schedule := by simp)
    (clock : t.clock = s.clock := by simp) (art : t.art = s.art := by simp) : t.TablesOk :=
  ok.of_slots_groups (slots ▸ ok.slots) groups items schedule clock art

theorem State.TablesOk.captureReady {s : State} (ok : s.TablesOk) (g : Fin 4) : s.groups[g].CaptureReady s.art :=
  (capturesReady_iff s).mp ok.captures g

/-- A state with the same tables and groups. -/
theorem State.TablesOk.of_eq {s t : State} (ok : s.TablesOk) (items : t.items = s.items := by simp)
    (slots : t.slots = s.slots := by simp) (schedule : t.schedule = s.schedule := by simp)
    (clock : t.clock = s.clock := by simp) (art : t.art = s.art := by simp)
    (groups : t.groups = s.groups := by simp) : t.TablesOk :=
  ok.of_groups (fun g => groups ▸ ok.captureReady g) items slots schedule clock art

/-- A state with other slots. -/
theorem State.TablesOk.of_slots {s : State} (ok : s.TablesOk) {slots : List (Nat × Slot)} (legal : SlotsOk slots) :
    ({ s with slots := slots } : State).TablesOk := { ok with slots := legal }

/-- A store in which the other places are as they were, and the written one is READY or in no capture. -/
theorem State.TablesOk.of_art {s : State} (ok : s.TablesOk) {art : Art} {place : Nat} (legal : ArtOk art)
    (others : ∀ n, n ≠ place → Table.find? art n = Table.find? s.art n)
    (named : captureUses s.groups place = true → (readyEntry art place).isSome = true) :
    ({ s with art := art } : State).TablesOk where
  items := ok.items
  slots := ok.slots
  schedule := ok.schedule
  clock := ok.clock
  art := legal
  captures n uses := by
    by_cases same : n = place
    · exact same ▸ named (same ▸ uses)
    · have before := ok.captures n uses
      simp only [readyEntry, others n same] at before ⊢
      exact before

/-! ## Commands: what each effect leaves -/

@[simp] theorem Answer.refuse_state (s : State) (r : ResultCode) : (Answer.refuse s r).state = s := rfl

@[simp] theorem Answer.refuseWith_state (s : State) (r : ResultCode) (b : List Byte) : (Answer.refuseWith s r b).state = s :=
  rfl

@[simp] theorem Answer.done_state (s : State) (b : List Byte) : (Answer.done s b).state = s := rfl

/-- The effect keeps the tables legal. -/
def KeepsTables (eff : List Byte → State → Answer) : Prop := ∀ b s, s.TablesOk → (eff b s).state.TablesOk

/-- The effects that write no table and no group. -/
def untouchingEffects : List (List Byte → State → Answer) :=
  [itemGet, itemList, formatPut, formatGet, formatMode, slotGet, availList, lineGet, groupGet, clockGet, scheduleGet,
    outputPut, outputGet, panelRelink, feedPut, feedGet, status, noticePut, artGet, unknown]

theorem keepsTables_of_untouching {eff : List Byte → State → Answer} (h : eff ∈ untouchingEffects) : KeepsTables eff := by
  intro b s ok
  simp only [untouchingEffects, List.mem_cons, List.not_mem_nil, or_false] at h
  rcases h with rfl | rfl | rfl | rfl | rfl | rfl | rfl | rfl | rfl | rfl | rfl | rfl | rfl | rfl | rfl | rfl | rfl | rfl |
    rfl | rfl
  all_goals
    simp only [itemGet, itemList, formatPut, formatGet, formatMode, slotGet, availList, lineGet, groupGet, clockGet,
      scheduleGet, outputPut, outputGet, panelRelink, feedPut, feedGet, status, State.clearLatches, noticePut, artGet, unknown]
    repeat' split
  all_goals exact ok.of_eq

/-! ### Items -/

/-- Writing an item record whose prices are prices. -/
theorem State.TablesOk.putItem {s : State} (ok : s.TablesOk) {code : Nat} {i : Item} (low : 1 ≤ code) (high : code ≤ 65535)
    (prices : i.PricesOk) (room : Table.find? s.items code = none → s.items.length < 1024) :
    (s.putItem code i).TablesOk := by
  have written : ({ s with items := Table.insert s.items code i } : State).TablesOk :=
    { ok with items := ok.items.insert low high prices room }
  exact written.of_eq (by simp [State.putItem]) (by simp [State.putItem]) (by simp [State.putItem]) (by simp [State.putItem])
    (by simp [State.putItem]) (by simp [State.putItem])

theorem keepsTables_itemPut : KeepsTables itemPut := by
  intro b s ok
  unfold itemPut
  split
  · exact ok
  split
  · exact ok
  rename_i good
  have code : u16 b 0 ≠ 0 := by simp [itemFieldsGood] at good; exact good.1
  have := u16_lt b 0
  split
  · rename_i old found
    exact ok.putItem (by omega) (by omega) (ok.items.of_find? found).2.2 (by simp [found])
  · split
    · exact ok
    · rename_i room
      exact ok.putItem (by omega) (by omega) ⟨by simp [readItem], by simp [readItem]⟩ (fun _ => by simpa using room)

theorem keepsTables_mark : KeepsTables mark := by
  intro b s ok
  unfold mark
  split
  · exact ok
  split
  · exact ok
  split
  · exact ok
  · rename_i i found
    obtain ⟨low, high, prices⟩ := ok.items.of_find? found
    exact ok.putItem low high prices (by simp [found])

theorem keepsTables_itemDrop : KeepsTables itemDrop := by
  intro b s ok
  unfold itemDrop
  split
  · exact ok
  split
  · exact ok
  split
  · exact ok
  · have erased : ({ s with items := Table.erase s.items (u16 b 0) } : State).TablesOk :=
      { ok with items := ok.items.erase _ }
    exact erased.of_eq

theorem keepsTables_pricePut : KeepsTables pricePut := by
  intro b s ok
  unfold pricePut
  split
  · exact ok
  split
  · exact ok
  split
  · exact ok
  · rename_i pass
    exact { ok with items := ok.items.applyPairs _ (fun pair => priceGood_of_firstPairFault pass) }

/-! ### Slots -/

/-- R40, R41: a slot bound to a record whose watch frames are not 0, or freed. -/
theorem State.TablesOk.rebindSlot {s : State} (ok : s.TablesOk) {n : Nat} (hn : n < 256) {record : Option SlotRecord}
    (frames : ∀ r, record = some r → 1 ≤ r.watchFrames) : (s.rebindSlot n record).TablesOk := by
  have written : (s.putSlot n ((s.slot n).rebind record)).TablesOk :=
    ok.of_slots (ok.slots.putSlot hn (Slot.ok_rebind frames _))
  unfold State.rebindSlot
  split
  · exact written.of_eq
  · exact written

theorem keepsTables_slotPut : KeepsTables slotPut := by
  intro b s ok
  unfold slotPut
  split
  · exact ok
  split
  · exact ok
  · rename_i good
    have frames : u16 b 45 ≠ 0 := by simp [slotFieldsGood] at good; exact good.2.2.2
    refine ok.rebindSlot (u8_lt b 0) ?_
    rintro r ⟨⟩
    exact Nat.one_le_iff_ne_zero.mpr frames

theorem keepsTables_slotDrop : KeepsTables slotDrop := by
  intro b s ok
  unfold slotDrop
  split
  · exact ok
  split
  · exact ok
  · exact ok.rebindSlot (u8_lt b 0) (by simp)

/-! ### Clock and schedule -/

/-- R112, R113: a resync writes the groups alone, and keeps every capture. -/
theorem State.TablesOk.resync {s : State} (ok : s.TablesOk) : (resync s).state.TablesOk := by
  refine ok.of_groups (fun g => (ok.captureReady g).of_capture (Or.inr ?_)) rfl rfl rfl rfl rfl
  simp only [Machine.resync, Answer.done_state, Fin.getElem_fin, getElem_tab, resyncGroup]
  split <;> simp

theorem keepsTables_clockSet : KeepsTables clockSet := by
  intro b s ok
  unfold clockSet
  split
  · split
    · exact ok.resync
    · exact ok
  split
  · exact ok
  split
  · exact ok
  · rename_i range
    have set : ({ s with clock := { running := true, day := u8 b 0, second := u32 b 1 } } : State).TablesOk :=
      { ok with clock := by simpa [Clock.Ok] using range }
    exact set.resync

/-- R117: a set field in range is not empty. -/
theorem ofNat_ne_zero {w n : Nat} (low : 1 ≤ n) (high : n < 2 ^ w) : BitVec.ofNat w n ≠ 0 := by
  intro zero
  have := congrArg BitVec.toNat zero
  simp [Nat.mod_eq_of_lt high] at this
  omega

theorem keepsTables_schedulePut : KeepsTables schedulePut := by
  intro b s ok
  unfold schedulePut
  split
  · exact ok
  split
  · exact ok
  rename_i good
  split
  · exact ok
  · rename_i clear
    simp only [scheduleFieldsGood, Bool.not_eq_true', Bool.not_eq_false, decide_eq_true_eq] at good
    obtain ⟨number, time, days, days', groups, groups', -⟩ := good
    exact { ok with
      schedule := ok.schedule.insert number time (ofNat_ne_zero days days') (ofNat_ne_zero groups groups') clear }

theorem keepsTables_scheduleDrop : KeepsTables scheduleDrop := by
  intro b s ok
  unfold scheduleDrop
  split
  · exact ok
  split
  · exact ok
  split
  · exact ok
  · exact { ok with schedule := ok.schedule.erase _ }

/-! ### Lines and groups -/

/-- R67, R72: lines landing. -/
theorem State.TablesOk.landLines {s : State} (ok : s.TablesOk) (touched : LineSet) (lines : Vector Line 8) :
    (s.landLines touched lines).TablesOk := by
  refine ok.of_groups (fun g => (ok.captureReady g).of_capture ?_)
  simpa using reline_capture touched (holdingLines lines g) s.groups[g]

theorem keepsTables_linePut : KeepsTables linePut := by
  intro b s ok
  unfold linePut
  split
  · exact ok
  split
  · exact ok
  · exact ok.landLines _ _

theorem keepsTables_groupPut : KeepsTables groupPut := by
  intro b s ok
  unfold groupPut
  split
  · exact ok
  split
  · exact ok
  dsimp only
  split
  · exact ok
  · refine ok.of_groups (fun g => ?_)
    rw [Answer.done_state, getElem_set_fin]
    split
    · rename_i same
      subst same
      exact (ok.captureReady _).of_capture (Or.inr rfl)
    · exact ok.captureReady g

theorem keepsTables_flipCommand : KeepsTables flipCommand := by
  intro b s ok
  unfold flipCommand
  split
  · exact ok
  split
  · exact ok
  · refine ok.of_groups (fun g => (ok.captureReady g).of_capture (Or.inr ?_))
    rw [Answer.done_state, sendFlip_getElem]
    split <;> simp

theorem keepsTables_holdOrRelease (f : Bool) : KeepsTables (holdOrRelease f) := by
  intro b s ok
  unfold holdOrRelease
  split
  · exact ok
  split
  · exact ok
  · refine ok.of_groups (fun g => (ok.captureReady g).of_capture ?_)
    simp only [Answer.done_state, holdGroups, Fin.getElem_fin, getElem_tab]
    split
    · exact setCommandHold_capture f s.groups[g]
    · exact Or.inr rfl

/-! ### Art -/

/-- R181: the shape of an ART OPEN body of the right length suits the place it names. -/
theorem readShape_okAt {b : List Byte} {place : Nat} (named : artPlace (u8 b 0) (u8 b 1) = some place)
    (length : b.length = if u8 b 0 = 0 then 33 else 9) : (readShape b).OkAt place := by
  obtain ⟨-, glyphs, -⟩ := artPlace_lt named
  unfold readShape
  split
  · rename_i kind
    exact ⟨glyphs.mpr kind, by simp [length, kind]⟩
  · rename_i kind
    have := mt glyphs.mp kind
    simp only [Shape.OkAt]
    omega

/-- R181: an ART OPEN that passes finds room, no other OPEN entry and no capture that uses the place. -/
theorem State.TablesOk.artOpenAt {s : State} (ok : s.TablesOk) {place : Nat} {shape : Shape} (hp : place < 67)
    (good : shape.good = true) (suits : shape.OkAt place) : (artOpenAt place shape s).state.TablesOk := by
  unfold Machine.artOpenAt
  split
  · exact ok
  rename_i alone
  split
  · exact ok
  rename_i unused
  split
  · exact ok
  · rename_i room
    have total := usedBlocks_insert ok.art.1 place { ready := false, shape := shape, content := [] }
    have old : ((Table.find? s.art place).map (fun x => x.shape.blocks)).getD 0 = blocksAt s.art place := by
      unfold blocksAt
      cases Table.find? s.art place <;> rfl
    have used := ok.art.2.2.2
    simp only [freeBlocks, Config.artBlocks] at room
    refine ok.of_art (ok.art.insert hp ⟨good, Nat.zero_le _, by simp⟩ suits (fun _ f hf => otherOpen_none alone hf) ?_)
      (fun n hn => Table.find?_insert_other _ _ hn) (fun uses => absurd uses unused)
    dsimp only at total
    omega

theorem keepsTables_artOpen : KeepsTables artOpen := by
  intro b s ok
  unfold artOpen
  split
  · exact ok
  split
  · exact ok
  rename_i place named
  by_cases length : b.length = if u8 b 0 = 0 then 33 else 9
  · rw [if_neg (not_not.mpr length)]
    split
    · exact ok
    · rename_i good
      exact ok.artOpenAt (artPlace_lt named).1 (by simpa using good) (readShape_okAt named length)
  · rw [if_pos length]
    exact ok

/-- R182, R183: the OPEN entry of a place written with the same shape; no capture uses it until it is READY. -/
theorem State.TablesOk.rewriteOpen {s : State} (ok : s.TablesOk) {place : Nat} {old e : ArtEntry}
    (found : openAt s.art place = some old) (same : e.shape = old.shape) (legal : e.Ok) :
    ({ s with art := Table.insert s.art place e } : State).TablesOk := by
  obtain ⟨listed, isOpen⟩ := openAt_eq_some.mp found
  obtain ⟨hp, -, suits⟩ := ok.art.of_find? listed
  have unused : captureUses s.groups place ≠ true := fun uses => by
    simpa [readyEntry, listed, isOpen] using ok.captures place uses
  refine ok.of_art (ok.art.insert hp legal (same ▸ suits) (fun _ f hf openF => ?_) ?_)
    (fun n hn => Table.find?_insert_other _ _ hn) (fun uses => absurd uses unused)
  · exact ok.art.2.2.1 f hf (place, old) (Table.find?_some_mem listed) openF isOpen
  · rw [usedBlocks_insert_same ok.art.1 listed same]
    exact ok.art.2.2.2

/-- R183, R184: an entry that no capture uses is erased. -/
theorem State.TablesOk.eraseArt {s : State} (ok : s.TablesOk) {place : Nat} (unused : captureUses s.groups place ≠ true) :
    ({ s with art := Table.erase s.art place } : State).TablesOk :=
  ok.of_art (ok.art.erase place) (fun _ hn => Table.find?_erase_other _ hn) (fun uses => absurd uses unused)

theorem keepsTables_artWrite : KeepsTables artWrite := by
  intro b s ok
  unfold artWrite
  split
  · exact ok
  split
  · exact ok
  split
  · exact ok
  rename_i e found
  split
  · exact ok
  rename_i cursor
  split
  · exact ok
  · rename_i room
    obtain ⟨listed, isOpen⟩ := openAt_eq_some.mp found
    obtain ⟨-, ⟨good, -, -⟩, -⟩ := ok.art.of_find? listed
    refine ok.rewriteOpen found rfl ⟨good, ?_, by simp [ArtEntry.append, isOpen]⟩
    simp only [ArtEntry.append, List.length_append]
    omega

theorem keepsTables_artClose : KeepsTables artClose := by
  intro b s ok
  unfold artClose
  split
  · exact ok
  split
  · exact ok
  rename_i place _
  split
  · exact ok
  rename_i e found
  obtain ⟨listed, isOpen⟩ := openAt_eq_some.mp found
  obtain ⟨-, ⟨good, top, -⟩, -⟩ := ok.art.of_find? listed
  split
  · rename_i closes
    simp only [ArtEntry.closes, Bool.and_eq_true, beq_iff_eq] at closes
    exact ok.rewriteOpen found rfl ⟨good, top, fun _ => closes.1⟩
  · refine ok.eraseArt (fun uses => ?_)
    simpa [readyEntry, listed, isOpen] using ok.captures place uses

theorem keepsTables_artDrop : KeepsTables artDrop := by
  intro b s ok
  unfold artDrop
  split
  · exact ok
  split
  · exact ok
  split
  · exact ok
  split
  · exact ok
  · rename_i unused
    exact ok.eraseArt unused

/-! ### Reset -/

/-- R163, R164: after a full reset the tables are empty. -/
theorem tablesOk_fullReset (s : State) : s.fullReset.TablesOk where
  items := ⟨List.Pairwise.nil, Nat.zero_le _, by simp [State.fullReset, State.reset]⟩
  slots := ⟨List.Pairwise.nil, by simp [State.fullReset, State.reset]⟩
  schedule := ⟨List.Pairwise.nil, by simp [State.fullReset, State.reset], List.Pairwise.nil⟩
  clock := ⟨Nat.zero_lt_succ _, Nat.zero_lt_succ _⟩
  art := ⟨List.Pairwise.nil, by simp [State.fullReset, State.reset], by simp [State.fullReset, State.reset], Nat.zero_le _⟩
  captures := (capturesReady_iff _).mpr (fun g view taken => by
    simp [State.fullReset, State.reset, Group.reset] at taken)

theorem keepsTables_restart : KeepsTables restart := by
  intro b s ok
  unfold restart
  split
  · exact ok
  · exact tablesOk_fullReset s

end Sys2Proof.Machine
end

section
/-! PROOFS. O57, continued: the gate before every command, the margin channel, and the events. -/

namespace Sys2Proof.Machine

/-! ## The command index and the gate (R155, R158, R159, R165) -/

/-- R165: every effect of the command index keeps the tables legal. -/
theorem keepsTables_commandEffect {code : Byte} {eff : List Byte → State → Answer} (h : commandEffect code = some eff) :
    KeepsTables eff := by
  unfold commandEffect at h
  split at h <;> cases h
  -- The cases stand in the order of the index: RESTART is the first, ART GET the last.
  case h_1 => exact keepsTables_restart
  case h_2 => exact keepsTables_itemPut
  case h_3 => exact keepsTables_itemDrop
  case h_6 => exact keepsTables_pricePut
  case h_10 => exact keepsTables_slotPut
  case h_11 => exact keepsTables_slotDrop
  case h_13 => exact keepsTables_mark
  case h_15 => exact keepsTables_linePut
  case h_17 => exact keepsTables_groupPut
  case h_19 => exact keepsTables_flipCommand
  case h_20 => exact keepsTables_holdOrRelease true
  case h_21 => exact keepsTables_holdOrRelease false
  case h_22 => exact keepsTables_clockSet
  case h_24 => exact keepsTables_schedulePut
  case h_25 => exact keepsTables_scheduleDrop
  case h_34 => exact keepsTables_artOpen
  case h_35 => exact keepsTables_artWrite
  case h_36 => exact keepsTables_artClose
  case h_37 => exact keepsTables_artDrop
  all_goals exact keepsTables_of_untouching (by simp [untouchingEffects])

theorem keepsTables_getD (code : Byte) : KeepsTables ((commandEffect code).getD unknown) := by
  cases named : commandEffect code with
  | none => exact keepsTables_of_untouching (by simp [untouchingEffects])
  | some eff => exact keepsTables_commandEffect named

theorem Answer.settle_tablesOk {a : Answer} (ok : a.state.TablesOk) (code : Byte) : (a.settle code).TablesOk := by
  unfold Answer.settle
  split
  · exact ok
  · exact ok.of_eq

theorem State.TablesOk.considerCommand {s : State} (ok : s.TablesOk) {eff : List Byte → State → Answer}
    (keeps : KeepsTables eff) (code : Byte) (b : List Byte) : (considerCommand code eff b s).TablesOk := by
  unfold Machine.considerCommand
  split
  · exact ok.of_eq
  · exact Answer.settle_tablesOk (keeps b _ ok.of_eq) code

theorem State.TablesOk.sendCommand {s : State} (ok : s.TablesOk) {eff : List Byte → State → Answer}
    (keeps : KeepsTables eff) (code : Byte) (b : List Byte) : (sendCommand code eff b s).TablesOk := by
  unfold Machine.sendCommand
  split
  · exact ok.considerCommand keeps code b
  · exact ok

/-! ## The margin channel (R153 to R158) -/

theorem State.TablesOk.cutPacket {s : State} (ok : s.TablesOk) : s.cutPacket.TablesOk := by
  unfold State.cutPacket
  exact ok.of_eq

theorem State.TablesOk.takeRelay {s : State} (ok : s.TablesOk) (dest : Nat) (packet : List Byte) :
    (s.takeRelay dest packet).TablesOk := by
  have spec := (takeRelay_spec dest packet s).1
  rw [spec]
  exact ok.of_eq

theorem State.TablesOk.considerPacket {s : State} (ok : s.TablesOk) (packet : List Byte) :
    (s.considerPacket packet).TablesOk := by
  unfold State.considerPacket
  split
  · exact ok.of_eq
  split
  · exact ok.considerCommand (keepsTables_getD _) _ _
  split
  · exact ok.takeRelay _ packet
  · exact ok.of_eq

theorem State.TablesOk.readPacket {s : State} (ok : s.TablesOk) (bytes : List Byte) : (s.readPacket bytes).TablesOk := by
  unfold State.readPacket
  split
  · exact ok
  split
  · exact ok.of_eq
  split
  · exact ok.cutPacket
  split
  · exact ok.cutPacket
  split
  · exact ok.cutPacket
  · exact State.TablesOk.considerPacket ok.of_eq _

/-! ## The frame start (R146) -/

/-- R146: a frame start writes no item, no schedule entry, no clock and no art. -/
theorem takeFrame_tables (pins : FramePins) (s : State) :
    (s.takeFrame pins).items = s.items ∧ (s.takeFrame pins).schedule = s.schedule ∧
      (s.takeFrame pins).clock = s.clock ∧ (s.takeFrame pins).art = s.art := by
  rw [takeFrame_frame]
  exact ⟨rfl, rfl, rfl, rfl⟩

/-- R89: a frame start leaves every group drawing its capture from READY art. -/
theorem takeFrame_captureReady {s : State} (pins : FramePins) {g : Fin 4} (ready : s.groups[g].CaptureReady s.art) :
    (s.takeFrame pins).groups[g].CaptureReady s.art := by
  rw [takeFrame_groups]
  refine Group.CaptureReady.of_capture ?_ (Or.inr (foldl_request_capture _ _ _))
  refine Group.CaptureReady.of_capture ?_ (reline_capture _ _ _)
  rw [← beforeGroups_art pins s] at ready ⊢
  rw [← beforeGroups_groups pins s] at ready
  exact groupAfter_captureReady ready

theorem State.TablesOk.takeFrame {s : State} (ok : s.TablesOk) (pins : FramePins) : (s.takeFrame pins).TablesOk := by
  obtain ⟨items, schedule, clock, art⟩ := takeFrame_tables pins s
  have slots : SlotsOk (s.takeFrame pins).slots := by
    rw [takeFrame_slots]
    exact ok.slots.mapSlots (fun _ _ legal => legal.withFit _)
  exact ok.of_slots_groups slots (fun g => takeFrame_captureReady pins (ok.captureReady g)) items schedule clock art

theorem State.TablesOk.frameIf {s : State} (ok : s.TablesOk) (due : Bool) (pins : FramePins) :
    (s.frameIf due pins).TablesOk := by
  unfold State.frameIf
  split
  · exact ok.takeFrame pins
  · exact ok

/-! ## Input frames (R141 to R148) -/

/-- R61, R145: leaving LOCKED drops the samples of the photo watch. -/
theorem State.TablesOk.enterCoasting {s : State} (ok : s.TablesOk) : s.enterCoasting.TablesOk :=
  (ok.of_slots (ok.slots.mapSlots (fun _ _ legal => legal.withoutSample))).of_eq rfl rfl rfl rfl rfl rfl

theorem State.TablesOk.lock {s : State} (ok : s.TablesOk) (g : Geometry) (period : Nat) (f : InputFrame) :
    (s.lock g period f).TablesOk := by
  unfold State.lock State.accept
  exact ok.of_eq

theorem State.TablesOk.train {s : State} (ok : s.TablesOk) (f : InputFrame) : (s.train f).TablesOk := by
  have trained : ∀ t, (s.setTraining t).TablesOk := fun t => ok.of_eq rfl rfl rfl rfl rfl rfl
  unfold State.train
  dsimp only
  split
  · exact (trained .empty).of_eq
  split
  · exact trained _
  · split <;> exact trained _
  · split
    · exact (ok.lock _ _ f).frameIf true f.pins
    · exact trained _

theorem State.TablesOk.discardFrame {s : State} (ok : s.TablesOk) (f : InputFrame) : (s.discardFrame f).TablesOk := by
  refine State.TablesOk.frameIf ?_ f.overdue f.pins
  exact ok.enterCoasting.of_eq

theorem State.TablesOk.checkFrame {s : State} (ok : s.TablesOk) (f : InputFrame) : (s.checkFrame f).TablesOk := by
  unfold State.checkFrame
  split
  · exact ok.of_eq rfl rfl rfl rfl rfl rfl
  · exact ok.discardFrame f

/-- R59 to R62, R148: the completion of an input frame runs the photo watch. -/
theorem State.TablesOk.completeFrame {s : State} (ok : s.TablesOk) : s.completeFrame.TablesOk := by
  have watched := ok.of_slots (ok.slots.mapSlots (fun _ _ legal => legal.watch s.feed.livePicture))
  unfold State.completeFrame State.photoWatch
  split
  · exact watched.of_eq
  · exact watched.of_eq rfl rfl rfl rfl rfl rfl

/-! ## The second tick, the return lanes and the return arbiter (R108, R129, R169, R173) -/

/-- R108: a legal clock one second on. -/
theorem Clock.Ok.tick {c : Clock} (ok : c.Ok) : c.tick.Ok := by
  unfold Clock.Ok at ok
  unfold Clock.tick
  split
  · rename_i within
    exact ⟨ok.1, within⟩
  · refine ⟨?_, Nat.zero_lt_succ _⟩
    dsimp only
    split <;> omega

theorem State.TablesOk.tickClock {s : State} (ok : s.TablesOk) : s.tickClock.TablesOk := by
  have ticked : ({ s with clock := s.clock.tick } : State).TablesOk := { ok with clock := ok.clock.tick }
  refine ticked.of_groups (fun g => (ok.captureReady g).of_capture (Or.inr ?_)) (by simp [State.tickClock])
    (by simp [State.tickClock]) (by simp [State.tickClock]) (by simp [State.tickClock]) (by simp [State.tickClock])
  simpa [State.tickClock] using fireEntries_capture (firing s.clock.tick s.schedule) s.groups g

theorem State.TablesOk.hearWord {s : State} (ok : s.TablesOk) (k : Fin 4) (w : AbilityWord) : (s.hearWord k w).TablesOk := by
  unfold State.hearWord
  exact ok.of_eq

theorem State.TablesOk.joinUp {s : State} (ok : s.TablesOk) (k : Fin 4) (p : PanelPacket) : (s.joinUp k p).TablesOk := by
  unfold State.joinUp
  dsimp only
  split
  · exact ok
  split
  · exact ok.of_eq
  · exact ok.of_eq

theorem State.TablesOk.sendNotice {s : State} (ok : s.TablesOk) (i : Fin 14) (detail : Word) :
    (s.sendNotice i detail).TablesOk := by
  unfold State.sendNotice
  exact ok.of_eq

/-- R169: serving a class takes a packet from its queue and moves the pointers. -/
theorem State.TablesOk.serve {s t : State} (ok : s.TablesOk) {c : ReturnClass} (served : s.serve c = some t) :
    t.TablesOk := by
  cases c with
  | reply =>
    simp only [State.serve, State.serveReply] at served
    split at served
    · cases served
    · cases served
      exact ok.of_eq
  | relay =>
    simp only [State.serve, State.serveRelay] at served
    split at served
    · cases served
    · split at served
      · cases served
      · cases served
        unfold State.sendRelay
        exact ok.of_eq
  | notice =>
    simp only [State.serve, State.serveNotice] at served
    split at served
    · cases served
    · cases served
      exact State.TablesOk.sendNotice ok.of_eq _ _

theorem State.TablesOk.arbitrate {s : State} (ok : s.TablesOk) : s.arbitrate.TablesOk := by
  unfold State.arbitrate
  split
  · exact ok.sendNotice _ _
  · cases served : s.lane.classPointer.cycle.findSome? (fun c => s.serve c) with
    | none => exact ok.of_eq
    | some t =>
      obtain ⟨c, -, from_c⟩ := List.exists_of_findSome?_eq_some served
      exact ok.serve from_c

/-! ## Every step -/

/-- A row that is no command: what its event leaves. -/
theorem State.TablesOk.exec_event {s t : State} (ok : s.TablesOk) {i : Instr} (event : commandOf i = none)
    (ran : exec i s = .next t) : t.TablesOk := by
  cases i <;> try cases event
  all_goals obtain rfl := Host.Outcome.next.inj ran
  case unknownCommand code b =>
    split
    · exact ok.sendCommand (keepsTables_of_untouching (by simp [untouchingEffects])) code b
    · exact ok
  case marginPacket bytes =>
    split
    · exact ok.readPacket bytes
    · exact ok
  case resetPinAsserted => exact tablesOk_fullReset _
  case resetPinReleased =>
    split
    · exact tablesOk_fullReset _
    · exact ok
  case powerUp => exact tablesOk_fullReset s
  case signalFound => exact ok.of_eq
  case signalLost cutShort =>
    split
    · exact ok.cutPacket.of_eq
    · exact ok.of_eq
  case inputFrameStart f =>
    split
    · exact ok
    · exact ok.train f
    · exact ok.train f
    · exact ok.checkFrame f
  case missingFrame pins =>
    split
    · exact ok.enterCoasting.frameIf true pins
    · exact ok
  case inputFrameComplete =>
    split
    · exact ok.completeFrame
    · exact ok
  case watchFramesReached n =>
    split
    · exact ok.completeFrame
    · exact ok
  case secondTick =>
    split
    · exact ok.tickClock
    · exact ok
  case abilityWord k bytes =>
    split
    · exact ok
    · split
      · exact ok.hearWord k _
      · exact ok
  case panelPacket k bytes =>
    split
    · exact ok
    · split
      · exact ok.joinUp k _
      · exact ok
  case unknownUnit k kind =>
    split
    · exact ok
    · exact ok.of_eq
  case returnSlot =>
    split
    · exact ok.arbitrate
    · exact ok
  all_goals exact ok.frameIf _ _

/-- Every row keeps the tables legal. -/
theorem State.TablesOk.exec {s t : State} (ok : s.TablesOk) {i : Instr} (ran : exec i s = .next t) : t.TablesOk := by
  cases command : commandOf i with
  | none => exact ok.exec_event command ran
  | some sent =>
    obtain ⟨eff, named, sends⟩ := exec_command command s
    rw [sends] at ran
    cases ran
    exact ok.sendCommand (commandEffect_eq_effectOf command named ▸ keepsTables_getD _) _ _

theorem State.TablesOk.step {s t : State} (ok : s.TablesOk) (ran : step s = .next t) : t.TablesOk := by
  unfold Machine.step at ran
  split at ran
  · cases ran
    exact ok
  · rename_i rest _
    have waiting : ({ s with pending := rest } : State).TablesOk := ok.of_eq
    exact waiting.exec ran

/-- R181: the shapes that ART OPEN accepts. -/
theorem shape_good_iff (h w : Nat) (advances : List Nat) (fill : Colour) :
    ((Shape.glyphSet h advances).good = true ↔ 8 ≤ h ∧ h ≤ 256 ∧ ∀ a ∈ advances, a ≠ 0) ∧
      ((Shape.card w h fill).good = true ↔ 1 ≤ w ∧ w ≤ 1024 ∧ 1 ≤ h ∧ h ≤ 1024) := by
  simp [Shape.good, and_assoc]

/-- Settles O57: the invariant of the tables is kept by every row, and so by every step. -/
theorem stepKeepsTables : Obligations.StepKeepsTables := by
  refine ⟨conflicts_iff, shape_good_iff, fun _ => rfl, fun _ _ _ => readyEntry_eq_some, ?_⟩
  intro s t ran items slots schedule clock art captures
  have before : s.TablesOk := ⟨items, slots, schedule, clock, art, captures⟩
  have after := before.step ran
  exact ⟨after.items, after.slots, after.schedule, after.clock, after.art, after.captures⟩

end Sys2Proof.Machine
end

section
/-! PROOFS. O12 to O14: ITEM PUT, ITEM DROP, ITEM GET and the two listings (R6 to R12, R77). -/

namespace Sys2Proof.Machine

/-! ## Tables and the count of changes -/

/-- Looking up a key after one entry is written. -/
theorem Table.find?_insert {α : Type} (t : List (Nat × α)) (j k : Nat) (v : α) :
    Table.find? (Table.insert t j v) k = if j = k then some v else Table.find? t k := by
  split
  · rename_i same
    exact same ▸ Table.find?_insert_same t j v
  · rename_i other
    exact Table.find?_insert_other t v (Ne.symm other)

/-- R78, R161: counting a change and counting the command are independent. -/
theorem countAvail_countTaken (n : Nat) (s : State) : State.countAvail n s.countTaken = (State.countAvail n s).countTaken := by
  rw [State.countAvail_eq n s.countTaken, State.countAvail_notices_congr n (s := s.countTaken) (t := s) rfl]
  conv_rhs => rw [State.countAvail_eq]
  rfl

/-- R78: what an update of an item counts. -/
theorem itemChange_some (lines : Vector Line 8) (old new : Item) :
    itemChange lines (some old) new =
      if new.notify = true ∧ new.mergedSoldOut lines ≠ old.mergedSoldOut lines then 1 else 0 := by
  simp [itemChange]

/-- R78: what a creation counts: a record that did not exist had merged sold-out no. -/
theorem itemChange_none (lines : Vector Line 8) (new : Item) :
    itemChange lines none new = if new.notify = true ∧ new.mergedSoldOut lines = true then 1 else 0 := by
  simp [itemChange]

/-! ## ITEM PUT (R6 to R8) -/

theorem exec_itemPut {s : State} (taken : s.Takes) (b : List Byte) :
    exec (.itemPut b) s = .next ((itemPut b s.countTaken).settle 0x10) := congrArg Host.Outcome.next (sendCommand_takes taken)

/-- R6: the field checks. -/
theorem itemFieldsGood_iff (b : List Byte) :
    itemFieldsGood b = true ↔
      u16 b 0 ≠ 0 ∧ u8 b 10 < 8 ∧ (u8 b 11 < 8 ∨ u8 b 11 = 255) ∧ u8 b 12 < 64 ∧ u8 b 13 < 32 := by
  simp [itemFieldsGood]

theorem itemPut_badLength {b : List Byte} (length : b.length ≠ 14) (s : State) : itemPut b s = .refuse s .badLength :=
  if_pos length

theorem itemPut_badField {b : List Byte} (length : b.length = 14) (bad : itemFieldsGood b = false) (s : State) :
    itemPut b s = .refuse s .badField := by
  simp [itemPut, length, bad]

theorem itemPut_update {b : List Byte} (length : b.length = 14) (good : itemFieldsGood b = true) {s : State} {old : Item}
    (found : Table.find? s.items (u16 b 0) = some old) :
    itemPut b s =
      .done (s.putItem (u16 b 0) (readItem b old.priceA old.priceB)) (put16 (u16 b 0) ++ [0] ++ put16 s.items.length) := by
  simp [itemPut, length, good, found, putFlag_eq]

theorem itemPut_full {b : List Byte} (length : b.length = 14) (good : itemFieldsGood b = true) {s : State}
    (absent : Table.find? s.items (u16 b 0) = none) (full : 1024 ≤ s.items.length) : itemPut b s = .refuse s .full := by
  simp [itemPut, length, good, absent, full]

theorem itemPut_create {b : List Byte} (length : b.length = 14) (good : itemFieldsGood b = true) {s : State}
    (absent : Table.find? s.items (u16 b 0) = none) (room : s.items.length < 1024) :
    itemPut b s =
      .done (s.putItem (u16 b 0) (readItem b none none)) (put16 (u16 b 0) ++ [1] ++ put16 (s.items.length + 1)) := by
  simp [itemPut, length, good, absent, Nat.not_le.mpr room, putFlag_eq]

/-- R7, R8: the state and reply of an ITEM PUT that writes a record. -/
theorem settle_putItem (s : State) (number : Nat) (i : Item) (body : List Byte) :
    (Answer.done (s.countTaken.putItem number i) body).settle 0x10 =
      (State.countAvail (itemChange s.lines (Table.find? s.items number) i)
        { s with items := Table.insert s.items number i }).replied 0x10 .done body := by
  have written : s.countTaken.putItem number i =
      (State.countAvail (itemChange s.lines (Table.find? s.items number) i)
        { s with items := Table.insert s.items number i }).countTaken :=
    countAvail_countTaken _ { s with items := Table.insert s.items number i }
  rw [written, settle_done]

/-- Settles O12: each check of ITEM PUT in its order, then the record that is written. -/
theorem itemPutWrites : Obligations.ItemPutWrites := by
  refine ⟨fun α t j k v => ⟨rfl, rfl, fun rising => ⟨Table.rising_insert rising j v, Table.find?_insert t j k v⟩⟩, ?_⟩
  intro b s taken
  rw [exec_itemPut taken]
  refine ⟨fun length => ?_, fun length bad => ?_, fun length code format stock badge flags => ?_⟩
  · rw [itemPut_badLength length, settle_refuse]
  · have refused : itemFieldsGood b = false := by
      rw [Bool.eq_false_iff, ne_eq, itemFieldsGood_iff]
      omega
    rw [itemPut_badField length refused, settle_refuse]
  · have good := (itemFieldsGood_iff b).mpr ⟨code, format, stock, badge, flags⟩
    refine ⟨fun old found => ?_, fun absent full => ?_, fun absent room => ?_⟩
    · obtain ⟨f1, f2, f3, f4, f5, f6, f7, f8⟩ := readItem_fields b old.priceA old.priceB format stock badge
      refine ⟨readItem b old.priceA old.priceB, f1, f2, f3, f4, f5, f6, f7, f8, ?_⟩
      rw [itemPut_update (s := s.countTaken) length good found, settle_putItem, found, itemChange_some]
      rfl
    · rw [itemPut_full (s := s.countTaken) length good absent full, settle_refuse]
    · obtain ⟨f1, f2, f3, f4, f5, f6, f7, f8⟩ := readItem_fields b none none format stock badge
      refine ⟨readItem b none none, f1, f2, f3, f4, f5, f6, f7, f8, ?_⟩
      rw [itemPut_create (s := s.countTaken) length good absent room, settle_putItem, absent, itemChange_none]
      rfl

/-! ## ITEM DROP and ITEM GET (R9, R11) -/

theorem exec_itemDrop {s : State} (taken : s.Takes) (b : List Byte) :
    exec (.itemDrop b) s = .next ((itemDrop b s.countTaken).settle 0x11) := congrArg Host.Outcome.next (sendCommand_takes taken)

theorem exec_itemGet {s : State} (taken : s.Takes) (b : List Byte) :
    exec (.itemGet b) s = .next ((itemGet b s.countTaken).settle 0x12) := congrArg Host.Outcome.next (sendCommand_takes taken)

theorem itemDrop_badLength {b : List Byte} (length : b.length ≠ 2) (s : State) : itemDrop b s = .refuse s .badLength :=
  if_pos length

theorem itemDrop_badField {b : List Byte} (length : b.length = 2) (zero : u16 b 0 = 0) (s : State) :
    itemDrop b s = .refuse s .badField := by
  simp [itemDrop, length, zero]

theorem itemDrop_noEntry {b : List Byte} (length : b.length = 2) (code : u16 b 0 ≠ 0) {s : State}
    (absent : Table.find? s.items (u16 b 0) = none) : itemDrop b s = .refuse s .noEntry := by
  simp [itemDrop, length, code, absent]

theorem itemDrop_found {b : List Byte} (length : b.length = 2) (code : u16 b 0 ≠ 0) {s : State} {old : Item}
    (found : Table.find? s.items (u16 b 0) = some old) :
    itemDrop b s =
      .done
        (State.countAvail (if old.notify = true ∧ old.mergedSoldOut s.lines = true then 1 else 0)
          { s with items := Table.erase s.items (u16 b 0) })
        (put16 (Table.erase s.items (u16 b 0)).length) := by
  simp [itemDrop, length, code, found]

theorem itemGet_badLength {b : List Byte} (length : b.length ≠ 2) (s : State) : itemGet b s = .refuse s .badLength :=
  if_pos length

theorem itemGet_badField {b : List Byte} (length : b.length = 2) (zero : u16 b 0 = 0) (s : State) :
    itemGet b s = .refuse s .badField := by
  simp [itemGet, length, zero]

theorem itemGet_noEntry {b : List Byte} (length : b.length = 2) (code : u16 b 0 ≠ 0) {s : State}
    (absent : Table.find? s.items (u16 b 0) = none) : itemGet b s = .refuse s .noEntry := by
  simp [itemGet, length, code, absent]

theorem itemGet_found {b : List Byte} (length : b.length = 2) (code : u16 b 0 ≠ 0) {s : State} {i : Item}
    (found : Table.find? s.items (u16 b 0) = some i) : itemGet b s = .done s (itemBody s.lines (u16 b 0) i) := by
  simp [itemGet, length, code, found]

/-- R11: the item record body, byte by byte. -/
theorem itemBody_eq (lines : Vector Line 8) (code : Nat) (i : Item) :
    itemBody lines code i =
      put16 code ++ put32 (i.priceA.getD 0xFFFFFFFF) ++ put32 (i.priceB.getD 0xFFFFFFFF) ++
        [BitVec.ofNat 8 i.format.val, BitVec.ofNat 8 ((i.stockClass.map (·.val)).getD 255),
          BitVec.ofNat 8 ((i.badge.map (·.val + 1)).getD 0),
          BitVec.ofNat 8 (i.soldOut.toNat + 2 * i.localOnly.toNat + 4 * i.notify.toNat +
            8 * (i.lineSoldOut lines).toNat + 16 * (i.mergedSoldOut lines).toNat)] := by
  simp [itemBody, itemFlags, putPrice_eq, classCode_eq, cardCode_eq]

/-- Settles O13: the refusals of both commands in order, the record removed and the record returned. -/
theorem itemDropAndGet : Obligations.ItemDropAndGet := by
  intro b s taken
  rw [exec_itemDrop taken, exec_itemGet taken]
  refine ⟨fun length => ?_, fun length zero => ?_, fun length code absent => ?_, fun length code old found rising => ?_,
    fun length => ?_, fun length zero => ?_, fun length code absent => ?_, fun length code i found => ?_⟩
  · rw [itemDrop_badLength length, settle_refuse]
  · rw [itemDrop_badField length zero, settle_refuse]
  · rw [itemDrop_noEntry (s := s.countTaken) length code absent, settle_refuse]
  · refine ⟨Table.erase s.items (u16 b 0), Table.find?_erase_same _ _, fun n other => Table.find?_erase_other _ other,
      Table.length_erase rising found, ?_⟩
    have dropped : ({ s.countTaken with items := Table.erase s.countTaken.items (u16 b 0) } : State) =
        ({ s with items := Table.erase s.items (u16 b 0) } : State).countTaken := rfl
    rw [itemDrop_found (s := s.countTaken) length code found, dropped, countAvail_countTaken, settle_done]
    rfl
  · rw [itemGet_badLength length, settle_refuse]
  · rw [itemGet_badField length zero, settle_refuse]
  · rw [itemGet_noEntry (s := s.countTaken) length code absent, settle_refuse]
  · rw [itemGet_found (s := s.countTaken) length code found, settle_done, itemBody_eq]
    rfl

/-! ## ITEM LIST and AVAIL LIST (R12, R77) -/

theorem exec_itemList {s : State} (taken : s.Takes) (b : List Byte) :
    exec (.itemList b) s = .next ((itemList b s.countTaken).settle 0x13) := congrArg Host.Outcome.next (sendCommand_takes taken)

theorem exec_availList {s : State} (taken : s.Takes) (b : List Byte) :
    exec (.availList b) s = .next ((availList b s.countTaken).settle 0x41) :=
  congrArg Host.Outcome.next (sendCommand_takes taken)

/-- R12: the codes of a table from the start code on. -/
theorem mem_codesFrom {start n : Nat} {items : List (Nat × Item)} :
    n ∈ codesFrom start items ↔ start ≤ n ∧ ∃ i, (n, i) ∈ items := by
  simp [codesFrom, and_comm]

/-- R12: the codes of a table in rising order come in rising order. -/
theorem pairwise_codesFrom {items : List (Nat × Item)} (rising : Table.Rising items) (start : Nat) :
    (codesFrom start items).Pairwise (· < ·) :=
  (List.pairwise_map.mpr rising).filter _

/-- R12, R77: more, the count and the codes of a listing. -/
theorem listing_eq (codes : List Nat) :
    listing codes =
      [if 100 < codes.length then 1 else 0, BitVec.ofNat 8 (min 100 codes.length)] ++ (codes.take 100).flatMap put16 := by
  simp [listing, putFlag_eq]

/-- Settles O14: both listings are the rising codes from the start code on, of all items and of those sold out. -/
theorem listingsAscend : Obligations.ListingsAscend := by
  intro b s taken
  rw [exec_itemList taken, exec_availList taken]
  refine ⟨fun length => ?_, fun length rising => ?_⟩
  · simp [itemList, availList, length]
  · refine ⟨codesFrom (u16 b 0) s.items, codesFrom (u16 b 0) (s.items.filter (fun e => e.2.mergedSoldOut s.lines)),
      fun n => mem_codesFrom, pairwise_codesFrom rising _, fun n => ?_, pairwise_codesFrom (rising.filter _) _, ?_, ?_⟩
    · simp [mem_codesFrom]
    · simp [itemList, length, listing_eq]
    · simp [availList, length, listing_eq]

end Sys2Proof.Machine
end

section
/-! PROOFS. O15 and O16: PRICE PUT is refused with its first fault, or writes the whole batch (R13 to R15). -/

namespace Sys2Proof.Machine

theorem exec_pricePut {s : State} (taken : s.Takes) (b : List Byte) :
    exec (.pricePut b) s = .next ((pricePut b s.countTaken).settle 0x14) := congrArg Host.Outcome.next (sendCommand_takes taken)

/-! ## The pairs of a body -/

/-- The code of pair j of a PRICE PUT body. -/
def pairCode (b : List Byte) (j : Nat) : Nat := u16 b (1 + 6 * j)

/-- The price field of pair j of a PRICE PUT body. -/
def pairPrice (b : List Byte) (j : Nat) : Nat := u32 b (3 + 6 * j)

/-- R14: pair j passes every check. -/
def PairPasses (items : List (Nat × Item)) (b : List Byte) (j : Nat) : Prop :=
  Table.find? items (pairCode b j) ≠ none ∧ pairCode b j ≠ 0 ∧ (pairPrice b j ≤ 9999999 ∨ pairPrice b j = 0xFFFFFFFF) ∧
    ∀ h, h < j → pairCode b h ≠ pairCode b j

/-- The codes that the check of pair j compares with its own: those of the pairs before it, latest first. -/
def earlierCodes (b : List Byte) (j : Nat) : List Nat := ((List.range j).map (pairCode b)).reverse

@[simp] theorem length_pricePairs (b : List Byte) (n : Nat) : (pricePairs b n).length = n := by simp [pricePairs]

@[simp] theorem getElem_pricePairs (b : List Byte) (n j : Nat) (h : j < (pricePairs b n).length) :
    (pricePairs b n)[j] = (pairCode b j, pairPrice b j) := by
  simp [pricePairs, pairCode, pairPrice]

theorem mem_pricePairs {b : List Byte} {n : Nat} {pair : Nat × Nat} :
    pair ∈ pricePairs b n ↔ ∃ j, j < n ∧ (pairCode b j, pairPrice b j) = pair := by
  simp [pricePairs, pairCode, pairPrice]

theorem take_pricePairs_codes (b : List Byte) {n j : Nat} (h : j ≤ n) :
    (((pricePairs b n).take j).map (·.1)).reverse ++ [] = earlierCodes b j := by
  simp only [pricePairs, ← List.map_take, List.take_range, Nat.min_eq_left h, List.map_map, List.append_nil]
  rfl

theorem mem_earlierCodes {b : List Byte} {j code : Nat} : code ∈ earlierCodes b j ↔ ∃ h, h < j ∧ pairCode b h = code := by
  simp [earlierCodes]

theorem priceGood_iff (n : Nat) : priceGood n = true ↔ n ≤ 9999999 ∨ n = 0xFFFFFFFF := by simp [priceGood]

/-- R14: the checks of pair j, as PRICE PUT makes them. -/
theorem pairFault_eq_none_iff_passes {items : List (Nat × Item)} {b : List Byte} {j : Nat} :
    pairFault items (earlierCodes b j) (pairCode b j, pairPrice b j) = none ↔ PairPasses items b j := by
  rw [pairFault_eq_none, priceGood_iff, mem_earlierCodes, PairPasses]
  simp only [not_exists, not_and, ne_eq]

/-! ## The faults of one pair (R14) -/

theorem pairFault_noEntry {items : List (Nat × Item)} {earlier : List Nat} {pair : Nat × Nat}
    (h : Table.find? items pair.1 = none ∨ pair.1 = 0) : pairFault items earlier pair = some .noEntry := if_pos h

theorem pairFault_badField {items : List (Nat × Item)} {earlier : List Nat} {pair : Nat × Nat}
    (found : Table.find? items pair.1 ≠ none) (code : pair.1 ≠ 0) (price : 10000000 ≤ pair.2) (price' : pair.2 ≤ 0xFFFFFFFE) :
    pairFault items earlier pair = some .badField := by
  have bad : priceGood pair.2 = false := by
    rw [Bool.eq_false_iff, ne_eq, priceGood_iff]
    omega
  simp [pairFault, found, code, bad]

theorem pairFault_conflict {items : List (Nat × Item)} {earlier : List Nat} {pair : Nat × Nat}
    (found : Table.find? items pair.1 ≠ none) (code : pair.1 ≠ 0) (good : priceGood pair.2 = true) (twice : pair.1 ∈ earlier) :
    pairFault items earlier pair = some .conflict := by
  simp [pairFault, found, code, good, twice]

/-! ## PRICE PUT, case by case -/

theorem pricePut_badLength {b : List Byte} (length : ∀ n, 1 ≤ n → n ≤ 39 → b.length ≠ 1 + 6 * n) (s : State) :
    pricePut b s = .refuseWith s .badLength [0xFF] := by
  simp [pricePut, pairCount_none length]

section
variable {b : List Byte} {n : Nat} (low : 1 ≤ n) (high : n ≤ 39) (length : b.length = 1 + 6 * n)
include low high length

theorem pricePut_badSelector (selector : 3 ≤ u8 b 0) (s : State) : pricePut b s = .refuseWith s .badField [0xFF] := by
  simp [pricePut, pairCount_some low high length, selector]

/-- R14: the first pair that fails a check decides, with its index. -/
theorem pricePut_firstFault (selector : u8 b 0 < 3) {i : Nat} (hi : i < n) {s : State}
    (before : ∀ j, j < i → PairPasses s.items b j) {r : ResultCode}
    (fault : pairFault s.items (earlierCodes b i) (pairCode b i, pairPrice b i) = some r) :
    pricePut b s = .refuseWith s r [BitVec.ofNat 8 i] := by
  have first : firstPairFault s.items 0 [] (pricePairs b n) = some (0 + i, r) := by
    refine firstPairFault_at s.items _ 0 [] i (by simpa using hi) r (fun j hj => ?_) ?_
    · dsimp only
      rw [take_pricePairs_codes b (by omega), getElem_pricePairs]
      exact pairFault_eq_none_iff_passes.mpr (before j hj)
    · rw [take_pricePairs_codes b (by omega), getElem_pricePairs]
      exact fault
  simp [pricePut, pairCount_some low high length, Nat.not_le.mpr selector, first]

/-- R15: where every pair passes, the batch is applied. -/
theorem pricePut_applies (selector : u8 b 0 < 3) {s : State} (pass : ∀ j, j < n → PairPasses s.items b j) :
    pricePut b s =
      .done { s with items := applyPairs (u8 b 0) (pricePairs b n) s.items } [BitVec.ofNat 8 n] := by
  have clean : firstPairFault s.items 0 [] (pricePairs b n) = none := by
    refine firstPairFault_none s.items _ 0 [] (fun j hj => ?_)
    rw [length_pricePairs] at hj
    rw [take_pricePairs_codes b (by omega), getElem_pricePairs]
    exact pairFault_eq_none_iff_passes.mpr (pass j hj)
  simp [pricePut, pairCount_some low high length, Nat.not_le.mpr selector, clean]

end

/-- Settles O15: length and bank selector first, then the first pair with a fault. -/
theorem pricePutRefusals : Obligations.PricePutRefusals := by
  intro b s taken
  rw [exec_pricePut taken]
  refine ⟨fun length => ?_, fun n low high length => ⟨fun selector => ?_, fun selector i hi before => ?_⟩⟩
  · rw [pricePut_badLength length, settle_refuseWith]
  · rw [pricePut_badSelector low high length selector, settle_refuseWith]
  · have decided : ∀ r, pairFault s.items (earlierCodes b i) (pairCode b i, pairPrice b i) = some r →
        (pricePut b s.countTaken).settle 0x14 = s.replied 0x14 r [BitVec.ofNat 8 i] := fun r fault => by
      rw [pricePut_firstFault (s := s.countTaken) low high length selector hi before fault, settle_refuseWith]
    refine ⟨fun absent => ?_, fun found code price price' => ?_, fun found code price twice => ?_⟩
    · rw [decided _ (pairFault_noEntry absent)]
    · rw [decided _ (pairFault_badField found code price price')]
    · rw [decided _ (pairFault_conflict found code ((priceGood_iff _).mpr price) (mem_earlierCodes.mpr twice))]

/-! ## The batch applied (R15) -/

theorem applyPairs_keys (selector : Nat) (pairs : List (Nat × Nat)) (items : List (Nat × Item)) :
    (applyPairs selector pairs items).map (·.1) = items.map (·.1) := by
  rw [applyPairs_eq, List.map_map]
  rfl

/-- No pair names the code. -/
theorem find?_pricePairs_none {b : List Byte} {n code : Nat} (unnamed : ∀ j, j < n → pairCode b j ≠ code) :
    Table.find? (pricePairs b n) code = none := by
  rw [Table.find?_none_iff]
  intro price named
  obtain ⟨j, hj, eq⟩ := mem_pricePairs.mp named
  exact unnamed j hj (congrArg Prod.fst eq)

/-- Where no code is given twice, each pair is the one that its code finds. -/
theorem find?_pricePairs {b : List Byte} {n : Nat}
    (once : ∀ j, j < n → ∀ h, h < j → pairCode b h ≠ pairCode b j) {j : Nat} (hj : j < n) :
    Table.find? (pricePairs b n) (pairCode b j) = some (pairPrice b j) := by
  cases found : Table.find? (pricePairs b n) (pairCode b j) with
  | none => exact absurd (mem_pricePairs.mpr ⟨j, hj, rfl⟩) (Table.find?_none_iff.mp found _)
  | some price =>
    obtain ⟨k, hk, eq⟩ := mem_pricePairs.mp (Table.find?_some_mem found)
    obtain ⟨code, rfl⟩ := Prod.mk.inj eq
    rcases Nat.lt_trichotomy k j with less | rfl | more
    · exact absurd code (once j hj k less)
    · rfl
    · exact absurd code.symm (once k hk j more)

/-- Settles O16: the table after the batch, item by item. -/
theorem pricePutApplies : Obligations.PricePutApplies := by
  intro b s n taken low high length selector pass
  have once : ∀ j, j < n → ∀ h, h < j → pairCode b h ≠ pairCode b j := fun j hj => (pass j hj).2.2.2
  refine ⟨applyPairs (u8 b 0) (pricePairs b n) s.items, ?_, applyPairs_keys _ _ _, fun code unnamed => ?_,
    fun j hj old found p hp => ?_⟩
  · rw [exec_pricePut taken, pricePut_applies (s := s.countTaken) low high length selector pass]
    rfl
  · rw [find?_applyPairs, find?_pricePairs_none unnamed]
    simp
  · obtain rfl : p = priceOf (pairPrice b j) := hp
    have written := find?_applyPairs (u8 b 0) (pricePairs b n) s.items (pairCode b j)
    rw [find?_pricePairs once hj, show Table.find? s.items (pairCode b j) = some old from found] at written
    exact written

end Sys2Proof.Machine
end

section
/-! PROOFS. O17 and O18: FORMAT PUT, FORMAT GET and FORMAT MODE (R20 to R23). -/

namespace Sys2Proof.Machine

/-! ## FORMAT PUT (R20, R21) -/

theorem exec_formatPut {s : State} (taken : s.Takes) (b : List Byte) :
    exec (.formatPut b) s = .next ((formatPut b s.countTaken).settle 0x20) :=
  congrArg Host.Outcome.next (sendCommand_takes taken)

/-- R21: the field ranges. -/
theorem formatFieldsInRange_iff (b : List Byte) :
    formatFieldsInRange b = true ↔
      u8 b 0 < 8 ∧ u8 b 1 < 4 ∧ u8 b 2 < 2 ∧ u8 b 3 < 5 ∧ u8 b 4 < 2 ∧ u8 b 5 < 2 ∧ u8 b 6 < 5 ∧ u8 b 7 < 2 ∧ u8 b 8 < 2 :=
  decide_eq_true_iff

/-- R21: the group mark equals the decimal mark while there are decimals. -/
theorem formatMarksClash_iff (b : List Byte) :
    formatMarksClash b = true ↔ u8 b 1 ≠ 0 ∧ ((u8 b 3 = 1 ∧ u8 b 2 = 1) ∨ (u8 b 3 = 2 ∧ u8 b 2 = 0)) :=
  decide_eq_true_iff

theorem formatPut_badLength {b : List Byte} (length : b.length ≠ 9) (s : State) : formatPut b s = .refuse s .badLength :=
  if_pos length

theorem formatPut_badField {b : List Byte} (length : b.length = 9)
    (bad : formatFieldsInRange b = false ∨ formatMarksClash b = true) (s : State) : formatPut b s = .refuse s .badField := by
  rcases bad with range | clash
  · simp [formatPut, length, range]
  · simp [formatPut, length, clash]

theorem formatPut_writes {b : List Byte} (length : b.length = 9) (range : formatFieldsInRange b = true)
    (apart : formatMarksClash b = false) (s : State) :
    formatPut b s =
      .done { s with formats := s.formats.set (Fin.ofNat 8 (u8 b 0)) (readFormat b) } [BitVec.ofNat 8 (u8 b 0)] := by
  simp [formatPut, length, range, apart]

theorem code_decimalMarkOf {n : Nat} (h : n < 2) : (decimalMarkOf n).code = n := by
  interval_cases n <;> rfl

theorem code_groupMarkOf {n : Nat} (h : n < 5) : (groupMarkOf n).code = n := by
  interval_cases n <;> rfl

/-- R21: the eight settable fields of the record that a body in range gives. -/
theorem readFormat_fields {b : List Byte} (range : formatFieldsInRange b = true) :
    (readFormat b).decimals.val = u8 b 1 ∧ (readFormat b).decimalMark.code = u8 b 2 ∧ (readFormat b).groupMark.code = u8 b 3 ∧
      ((readFormat b).minorStyle = .raised ↔ u8 b 4 = 1) ∧ (readFormat b).dropZeroMinor.toNat = u8 b 5 ∧
      (readFormat b).symbol.val = u8 b 6 ∧ ((readFormat b).symbolPlace = .after ↔ u8 b 7 = 1) ∧
      (readFormat b).symbolGap.toNat = u8 b 8 := by
  obtain ⟨-, decimals, mark, group, style, drop, symbol, place, gap⟩ := (formatFieldsInRange_iff b).mp range
  refine ⟨val_finOfNat decimals, code_decimalMarkOf mark, code_groupMarkOf group, ?_, toNat_eq_one drop, val_finOfNat symbol, ?_,
    toNat_eq_one gap⟩
  · rw [readFormat]
    split <;> simp <;> omega
  · rw [readFormat]
    split <;> simp <;> omega

/-- Settles O17: the codes of the marks, the refusals of FORMAT PUT, and the record that it writes. -/
theorem formatPutWrites : Obligations.FormatPutWrites := by
  refine ⟨⟨rfl, rfl, rfl, rfl, rfl, rfl, rfl⟩, ?_⟩
  intro b s taken
  rw [exec_formatPut taken]
  refine ⟨fun length => ?_, fun length out => ?_, fun length decimals same => ?_,
    fun length number decimals mark group style drop symbol place gap different => ?_⟩
  · rw [formatPut_badLength length, settle_refuse]
  · have range : formatFieldsInRange b = false := by
      rw [Bool.eq_false_iff, ne_eq, formatFieldsInRange_iff]
      omega
    rw [formatPut_badField length (.inl range), settle_refuse]
  · have clash := (formatMarksClash_iff b).mpr ⟨Nat.one_le_iff_ne_zero.mp decimals, same⟩
    rw [formatPut_badField length (.inr clash), settle_refuse]
  · have range := (formatFieldsInRange_iff b).mpr ⟨number, decimals, mark, group, style, drop, symbol, place, gap⟩
    have apart : formatMarksClash b = false := by
      rw [Bool.eq_false_iff, ne_eq, formatMarksClash_iff]
      rintro ⟨nonzero, same⟩
      exact different.elim nonzero (fun differ => differ same)
    obtain ⟨f1, f2, f3, f4, f5, f6, f7, f8⟩ := readFormat_fields range
    refine ⟨readFormat b, f1, f2, f3, f4, f5, f6, f7, f8, ?_⟩
    rw [formatPut_writes length range apart]
    rfl

/-! ## FORMAT GET and FORMAT MODE (R22, R23) -/

theorem exec_formatGet {s : State} (taken : s.Takes) (b : List Byte) :
    exec (.formatGet b) s = .next ((formatGet b s.countTaken).settle 0x21) :=
  congrArg Host.Outcome.next (sendCommand_takes taken)

theorem exec_formatMode {s : State} (taken : s.Takes) (b : List Byte) :
    exec (.formatMode b) s = .next ((formatMode b s.countTaken).settle 0x22) :=
  congrArg Host.Outcome.next (sendCommand_takes taken)

/-- R22: the format record body, byte by byte. -/
theorem formatBody_eq (n : Nat) (f : Format) :
    formatBody n f =
      [BitVec.ofNat 8 n, BitVec.ofNat 8 f.decimals.val, BitVec.ofNat 8 f.decimalMark.code, BitVec.ofNat 8 f.groupMark.code,
        (if f.minorStyle = .raised then 1 else 0), (if f.dropZeroMinor then 1 else 0), BitVec.ofNat 8 f.symbol.val,
        (if f.symbolPlace = .after then 1 else 0), (if f.symbolGap then 1 else 0)] := by
  have style : BitVec.ofNat 8 (if f.minorStyle = .inline then 0 else 1) = if f.minorStyle = .raised then 1 else 0 := by
    cases f.minorStyle <;> rfl
  have place : BitVec.ofNat 8 (if f.symbolPlace = .before then 0 else 1) = if f.symbolPlace = .after then 1 else 0 := by
    cases f.symbolPlace <;> rfl
  simp only [formatBody, put8_eq, putFlag_eq, style, place, List.cons_append, List.nil_append]

theorem formatGet_badLength {b : List Byte} (length : b.length ≠ 1) (s : State) : formatGet b s = .refuse s .badLength :=
  if_pos length

theorem formatGet_badField {b : List Byte} (length : b.length = 1) (number : 8 ≤ u8 b 0) (s : State) :
    formatGet b s = .refuse s .badField := by
  simp [formatGet, length, number]

theorem formatGet_answers {b : List Byte} (length : b.length = 1) {n : Fin 8} (number : u8 b 0 = n.val) (s : State) :
    formatGet b s = .done s (formatBody n.val s.formats[n]) := by
  have record : s.formats[Fin.ofNat 8 (u8 b 0)] = s.formats[n] := by simp only [finOfNat_eq number]
  rw [formatGet, if_neg (not_not.mpr length), if_neg (by omega), record, number]

theorem formatMode_empty (s : State) : formatMode [] s = .done s (formatModeBody s.formatMode) := rfl

theorem formatMode_badLength {b : List Byte} (nonempty : b.length ≠ 0) (length : b.length ≠ 2) (s : State) :
    formatMode b s = .refuse s .badLength := by
  rw [formatMode, if_neg nonempty, if_pos length]

theorem formatMode_badField {b : List Byte} (length : b.length = 2) (out : 2 ≤ u8 b 0 ∨ 8 ≤ u8 b 1) (s : State) :
    formatMode b s = .refuse s .badField := by
  simp [formatMode, length, out]

theorem formatMode_sets {b : List Byte} (length : b.length = 2) (mode : u8 b 0 < 2) {n : Fin 8} (number : u8 b 1 = n.val)
    (s : State) :
    formatMode b s =
      .done { s with formatMode := { perItem := decide (u8 b 0 = 1), number := n } }
        [BitVec.ofNat 8 (u8 b 0), BitVec.ofNat 8 n.val] := by
  have flag : putFlag (u8 b 0 == 1) = [BitVec.ofNat 8 (u8 b 0)] := by rw [putFlag, toNat_eq_one mode, put8_eq]
  rw [formatMode, if_neg (by omega), if_neg (not_not.mpr length), if_neg (by omega), finOfNat_eq number, formatModeBody, flag,
    put8_eq]
  rfl

/-- Settles O18: the record returned, the mode returned or set, their refusals, and the mode after a full reset. -/
theorem formatGetAndMode : Obligations.FormatGetAndMode := by
  refine ⟨rfl, ?_⟩
  intro b s taken
  rw [exec_formatGet taken, exec_formatMode taken]
  refine ⟨fun length => ?_, fun length number => ?_, fun length n number => ?_, ?_, fun nonempty length => ?_,
    fun length out => ?_, fun length mode n number => ?_⟩
  · rw [formatGet_badLength length, settle_refuse]
  · rw [formatGet_badField length number, settle_refuse]
  · rw [formatGet_answers length number, settle_done, formatBody_eq]
    rfl
  · rintro rfl
    rw [formatMode_empty, settle_done, formatModeBody, putFlag_eq]
    rfl
  · rw [formatMode_badLength nonempty length, settle_refuse]
  · rw [formatMode_badField length out, settle_refuse]
  · rw [formatMode_sets length mode number]
    rfl

end Sys2Proof.Machine
end

section
/-! PROOFS. O19 and O20: the glyphs of a price, their widths and the fit outcome (R26 to R31). -/

namespace Sys2Proof.Machine

/-! ## The major digits and their group marks (R26, R27) -/

/-- R26: the digits of a price before the decimal mark. -/
def majorDigits (f : Format) (p : Nat) : List Nat := decimalDigits 7 (p / 10 ^ f.decimals.val)

theorem majorGlyphs_of_noMark {f : Format} (noMark : f.groupMark.glyph = none) (p : Nat) :
    majorGlyphs f p = majorDigits f p := by
  simp only [majorGlyphs, noMark, majorDigits]

theorem majorGlyphs_of_mark {f : Format} {m : Nat} (mark : f.groupMark.glyph = some m) (p : Nat) :
    majorGlyphs f p = groupDigits m (majorDigits f p) := by
  simp only [majorGlyphs, mark, majorDigits]

theorem GroupMark.glyph_eq_some_iff {g : GroupMark} {m : Nat} :
    g.glyph = some m ↔
      (g = .comma ∧ m = 21) ∨ (g = .point ∧ m = 20) ∨ (g = .apostrophe ∧ m = 22) ∨ (g = .thinSpace ∧ m = 23) := by
  cases g <;> simp [GroupMark.glyph, eq_comm]

theorem majorGlyphs_of_short {f : Format} {p : Nat} (short : (majorDigits f p).length ≤ 3) :
    majorGlyphs f p = majorDigits f p := by
  cases mark : f.groupMark.glyph with
  | none => exact majorGlyphs_of_noMark mark p
  | some m => rw [majorGlyphs_of_mark mark, groupDigits_short m short]

/-- R27: four to six digits carry one group mark, before the last three. -/
theorem groupDigits_one (m : Nat) {l : List Nat} (low : 4 ≤ l.length) (high : l.length ≤ 6) :
    groupDigits m l = l.take (l.length - 3) ++ [m] ++ l.drop (l.length - 3) := by
  have last : (l.drop (l.length - 3)).length = 3 := by rw [List.length_drop]; omega
  have front : (l.take (l.length - 3)).length = l.length - 3 := by rw [List.length_take]; omega
  conv_lhs => rw [← List.take_append_drop (l.length - 3) l]
  rw [groupDigits_append m (List.ne_nil_of_length_pos (by omega)) (List.ne_nil_of_length_pos (by omega)) (by omega),
    groupDigits_short m (by omega), groupDigits_short m (by omega), List.append_assoc, List.singleton_append]

/-- R27: of seven digits the first stands alone, and a group mark before each of the two triples. -/
theorem groupDigits_seven (m : Nat) {l : List Nat} (seven : l.length = 7) :
    groupDigits m l = l.take 1 ++ [m] ++ (l.drop 1).take 3 ++ [m] ++ l.drop 4 := by
  have triples : (l.drop 1).length = 6 := by rw [List.length_drop, seven]
  have first : (l.take 1).length = 1 := by rw [List.length_take, seven]; rfl
  conv_lhs => rw [← List.take_append_drop 1 l]
  rw [groupDigits_append m (List.ne_nil_of_length_pos (by omega)) (List.ne_nil_of_length_pos (by omega)) (by omega),
    groupDigits_short m (by omega), groupDigits_one m (by omega) (by omega), triples, List.drop_drop]
  simp only [List.append_assoc, List.cons_append, List.nil_append]

/-- R3, R26: a price has at most seven digits, and each decimal takes one of them from the major part. -/
theorem length_majorDigits (f : Format) {p : Nat} (price : p ≤ 9999999) :
    1 ≤ (majorDigits f p).length ∧ (majorDigits f p).length ≤ 7 - f.decimals.val := by
  have few := f.decimals.isLt
  have small : p / 10 ^ f.decimals.val < 10 ^ (7 - f.decimals.val) := by
    apply Nat.div_lt_of_lt_mul
    rw [← pow_add, Nat.add_sub_cancel' (by omega)]
    omega
  exact length_decimalDigits small (by omega) (by omega)

/-- R26: the major digits read back as the major part, and 0 alone leads with a zero. -/
theorem majorDigits_value (f : Format) {p : Nat} (price : p ≤ 9999999) :
    (majorDigits f p).foldl (fun a x => 10 * a + x) 0 = p / 10 ^ f.decimals.val ∧ (∀ x ∈ majorDigits f p, x < 10) ∧
      ((majorDigits f p).head? = some 0 → majorDigits f p = [0]) := by
  have small : p / 10 ^ f.decimals.val < 10 ^ (7 + 1) := (Nat.div_le_self _ _).trans_lt (by omega)
  obtain ⟨value, digits, leading⟩ := decimalDigits_value 7 _ small
  exact ⟨value, digits, fun zero => (leading zero).2⟩

/-- R27: the group marks add at most one glyph for every three digits after the first. -/
theorem length_majorGlyphs_le (f : Format) (p : Nat) :
    (majorGlyphs f p).length ≤ (majorDigits f p).length + ((majorDigits f p).length - 1) / 3 := by
  cases mark : f.groupMark.glyph with
  | none => exact majorGlyphs_of_noMark mark p ▸ Nat.le_add_right _ _
  | some m => rw [majorGlyphs_of_mark mark, length_groupDigits]

/-! ## The minor part (R26, R28) -/

/-- R26: the digits of a price after the decimal mark. -/
def minorDigits (f : Format) (p : Nat) : List Nat := paddedDigits f.decimals.val (p % 10 ^ f.decimals.val)

/-- R26: the minor digits, as many as there are decimals, read back as the minor part. -/
theorem minorDigits_value (f : Format) (p : Nat) :
    (minorDigits f p).length = f.decimals.val ∧
      (minorDigits f p).foldl (fun a x => 10 * a + x) 0 = p % 10 ^ f.decimals.val ∧ ∀ x ∈ minorDigits f p, x < 10 := by
  obtain ⟨length, value, digits⟩ := paddedDigits_value f.decimals.val (p % 10 ^ f.decimals.val)
  exact ⟨length, value.trans (Nat.mod_mod _ _), digits⟩

theorem minorGlyphs_omitted {f : Format} {p : Nat}
    (omitted : f.decimals.val = 0 ∨ (f.dropZeroMinor = true ∧ p % 10 ^ f.decimals.val = 0)) : minorGlyphs f p = [] := by
  rcases omitted with decimals | dropped
  · exact if_pos (Fin.ext decimals)
  · simp only [minorGlyphs, if_pos dropped, ite_self]

/-- R26, R28: a minor part that is not left out is written in the minor style. -/
theorem minorGlyphs_written {f : Format} {p : Nat} (decimals : f.decimals.val ≠ 0)
    (kept : f.dropZeroMinor = false ∨ p % 10 ^ f.decimals.val ≠ 0) :
    (f.minorStyle = .raised → minorGlyphs f p = (minorDigits f p).map (fun x => 10 + x)) ∧
      (f.minorStyle = .inline → minorGlyphs f p = f.decimalMark.glyph :: minorDigits f p) := by
  have nonzero : f.decimals ≠ 0 := fun zero => decimals (congrArg Fin.val zero)
  have notDropped : ¬ (f.dropZeroMinor = true ∧ p % 10 ^ f.decimals.val = 0) := by
    rintro ⟨drop, zero⟩
    exact kept.elim (fun keep => absurd (keep.symm.trans drop) Bool.false_ne_true) (fun rest => rest zero)
  simp only [minorGlyphs, if_neg nonzero, if_neg notDropped]
  refine ⟨fun raised => ?_, fun inline => ?_⟩
  · rw [raised]
    exact List.map_congr_left (fun x _ => Nat.add_comm x 10)
  · rw [inline]
    rfl

/-- R28: the minor part is its digits and at most one mark, and nothing without decimals. -/
theorem length_minorGlyphs_le (f : Format) (p : Nat) :
    (minorGlyphs f p).length ≤ if f.decimals.val = 0 then 0 else f.decimals.val + 1 := by
  by_cases omitted : f.decimals.val = 0 ∨ (f.dropZeroMinor = true ∧ p % 10 ^ f.decimals.val = 0)
  · rw [minorGlyphs_omitted omitted]
    exact Nat.zero_le _
  · obtain ⟨decimals, notDropped⟩ := not_or.mp omitted
    have kept : f.dropZeroMinor = false ∨ p % 10 ^ f.decimals.val ≠ 0 := by
      rwa [Decidable.not_and_iff_not_or_not, Bool.not_eq_true] at notDropped
    obtain ⟨raised, inline⟩ := minorGlyphs_written decimals kept
    have digits := (minorDigits_value f p).1
    rw [if_neg decimals]
    cases style : f.minorStyle with
    | raised =>
      rw [raised style, List.length_map]
      omega
    | inline =>
      rw [inline style, List.length_cons]
      omega

/-! ## The number, and the price with its symbol (R29, R30) -/

/-- R30: a number has at most 9 glyphs. -/
theorem length_numberGlyphs_le (f : Format) {p : Nat} (price : p ≤ 9999999) : (numberGlyphs f p).length ≤ 9 := by
  have few := f.decimals.isLt
  have digits := (length_majorDigits f price).2
  have major := length_majorGlyphs_le f p
  have minor := length_minorGlyphs_le f p
  rw [numberGlyphs, List.length_append]
  split at minor <;> omega

theorem priceGlyphs_noSymbol {f : Format} (noSymbol : f.symbol = 0) (p : Nat) : priceGlyphs f p = numberGlyphs f p :=
  if_pos noSymbol

theorem priceGlyphs_before {f : Format} (symbol : f.symbol ≠ 0) (place : f.symbolPlace = .before) (p : Nat) :
    priceGlyphs f p = [24 + f.symbol.val] ++ gapGlyphs f ++ numberGlyphs f p := by
  simp only [priceGlyphs, if_neg symbol, place]

theorem priceGlyphs_after {f : Format} (symbol : f.symbol ≠ 0) (place : f.symbolPlace = .after) (p : Nat) :
    priceGlyphs f p = numberGlyphs f p ++ gapGlyphs f ++ [24 + f.symbol.val] := by
  simp only [priceGlyphs, if_neg symbol, place]

theorem length_gapGlyphs_le (f : Format) : (gapGlyphs f).length ≤ 1 := by
  rw [gapGlyphs]
  split <;> simp

/-- R29: the symbol and its gap add at most two glyphs. -/
theorem length_priceGlyphs_le (f : Format) (p : Nat) : (priceGlyphs f p).length ≤ (numberGlyphs f p).length + 2 := by
  have gap := length_gapGlyphs_le f
  by_cases symbol : f.symbol = 0
  · rw [priceGlyphs_noSymbol symbol]
    omega
  · cases place : f.symbolPlace with
    | before =>
      rw [priceGlyphs_before symbol place]
      simp only [List.length_append, List.length_singleton]
      omega
    | after =>
      rw [priceGlyphs_after symbol place]
      simp only [List.length_append, List.length_singleton]
      omega

/-! ## What a price is written with -/

/-- R27: where the group marks stand among the major digits. -/
theorem majorGlyphs_grouped {f : Format} {m : Nat} (mark : f.groupMark.glyph = some m) (p : Nat) {major : List Nat}
    (digits : major = majorDigits f p) :
    (4 ≤ major.length → major.length ≤ 6 →
        majorGlyphs f p = major.take (major.length - 3) ++ [m] ++ major.drop (major.length - 3)) ∧
      (major.length = 7 →
        majorGlyphs f p = major.take 1 ++ [m] ++ (major.drop 1).take 3 ++ [m] ++ major.drop 4) := by
  subst digits
  rw [majorGlyphs_of_mark mark]
  exact ⟨groupDigits_one m, groupDigits_seven m⟩

/-- R28: a minor part that is not left out follows the major glyphs. -/
theorem numberGlyphs_written {f : Format} {p : Nat} (decimals : f.decimals.val ≠ 0)
    (kept : f.dropZeroMinor = false ∨ p % 10 ^ f.decimals.val ≠ 0) :
    (f.minorStyle = .raised → numberGlyphs f p = majorGlyphs f p ++ (minorDigits f p).map (fun x => 10 + x)) ∧
      (f.minorStyle = .inline → numberGlyphs f p = majorGlyphs f p ++ [f.decimalMark.glyph] ++ minorDigits f p) := by
  obtain ⟨raised, inline⟩ := minorGlyphs_written decimals kept
  refine ⟨fun style => ?_, fun style => ?_⟩
  · rw [numberGlyphs, raised style]
  · rw [numberGlyphs, inline style, List.append_assoc, List.singleton_append]

/-- Settles O19: the major and minor digits of the price are the ones the statement asks for, the glyphs are put together from
them, and the lengths add up. -/
theorem priceIsWritten : Obligations.PriceIsWritten := by
  refine ⟨?_, ?_, fun advances rest g => ⟨rfl, rfl⟩⟩
  · rintro f p d price rfl
    obtain ⟨majorValue, majorSmall, leading⟩ := majorDigits_value f price
    obtain ⟨atLeast, atMost⟩ := length_majorDigits f price
    refine ⟨majorDigits f p, majorGlyphs f p, minorDigits f p,
      ⟨majorValue, majorSmall, atLeast, atMost.trans (Nat.sub_le _ _), leading⟩, minorDigits_value f p, fun plain => ?_,
      fun m mark => majorGlyphs_grouped (GroupMark.glyph_eq_some_iff.mpr mark) p rfl, fun omitted => ?_,
      fun decimals kept => ?_, length_numberGlyphs_le f price⟩
    · exact plain.elim (fun absent => majorGlyphs_of_noMark (congrArg GroupMark.glyph absent) p) majorGlyphs_of_short
    · rw [numberGlyphs, minorGlyphs_omitted omitted, List.append_nil]
    · obtain ⟨raised, inline⟩ := numberGlyphs_written decimals kept
      refine ⟨raised, fun style point => ?_, fun style comma => ?_⟩
      · rw [inline style, point, DecimalMark.glyph]
      · rw [inline style, comma, DecimalMark.glyph]
  · rintro f p gap rfl
    exact ⟨fun noSymbol => priceGlyphs_noSymbol noSymbol p, fun symbol place => priceGlyphs_before symbol place p,
      fun symbol place => priceGlyphs_after symbol place p,
      fun price => (length_priceGlyphs_le f p).trans (Nat.add_le_add_right (length_numberGlyphs_le f price) 2)⟩

/-! ## The fit outcome (R31) -/

theorem sequenceWidth_replicate (advances : List Nat) (n g : Nat) :
    sequenceWidth advances (List.replicate n g) = n * advances.getD g 0 := by
  simp [sequenceWidth]

/-- R31: the dashes that are drawn fit the field. -/
theorem sequenceWidth_dashes_le (advances : List Nat) (w : Nat) :
    sequenceWidth advances (List.replicate (dashCount advances w) 24) ≤ w := by
  rw [sequenceWidth_replicate]
  calc dashCount advances w * advances.getD 24 0 ≤ w / advances.getD 24 0 * advances.getD 24 0 :=
        Nat.mul_le_mul_right _ (min_le_right _ _)
    _ ≤ w := Nat.div_mul_le_self _ _

section
variable {advances : List Nat} {policy : FitPolicy} {w : Nat} {f : Format} {p : Nat}

theorem fitPrice_drawn (fits : sequenceWidth advances (priceGlyphs f p) ≤ w) :
    fitPrice advances policy w f p = (.drawn, priceGlyphs f p) := if_pos fits

theorem fitPrice_trimmed (wide : w < sequenceWidth advances (priceGlyphs f p)) (trims : policy = .trimThenDash)
    (symbol : f.symbol ≠ 0) (fits : sequenceWidth advances (numberGlyphs f p) ≤ w) :
    fitPrice advances policy w f p = (.trimmed, numberGlyphs f p) := by
  rw [fitPrice, if_neg (Nat.not_le.mpr wide), if_pos ⟨trims, symbol, fits⟩]

/-- R31, cases 3 and 4: where neither sequence may be drawn, as many dashes as fit, at most three, or none. -/
theorem fitPrice_dashes (wide : w < sequenceWidth advances (priceGlyphs f p))
    (noTrim : policy = .dash ∨ f.symbol = 0 ∨ w < sequenceWidth advances (numberGlyphs f p)) :
    fitPrice advances policy w f p =
      if dashCount advances w = 0 then (.blank, []) else (.dashed, List.replicate (dashCount advances w) 24) := by
  have untrimmed :
      ¬ (policy = .trimThenDash ∧ f.symbol ≠ 0 ∧ sequenceWidth advances (numberGlyphs f p) ≤ w) := by
    rintro ⟨rfl, symbol, fits⟩
    rcases noTrim with dash | noSymbol | wider
    · cases dash
    · exact symbol noSymbol
    · exact Nat.not_le.mpr wider fits
  rw [fitPrice, if_neg (Nat.not_le.mpr wide), if_neg untrimmed]
  split
  · rw [if_neg (by omega)]
  · rw [if_pos (by omega)]

/-- R31: no case draws more than the field holds. -/
theorem sequenceWidth_fitPrice_le (advances : List Nat) (policy : FitPolicy) (w : Nat) (f : Format) (p : Nat) :
    sequenceWidth advances (fitPrice advances policy w f p).2 ≤ w := by
  unfold fitPrice
  split
  case isTrue fits => exact fits
  case isFalse =>
    split
    case isTrue trimmed => exact trimmed.2.2
    case isFalse =>
      split
      case isTrue => exact sequenceWidth_dashes_le advances w
      case isFalse => exact Nat.zero_le w

end

/-- Settles O20: the three cases of the fit, and what they draw fits the field. -/
theorem fitChoosesFirstCase : Obligations.FitChoosesFirstCase :=
  fun advances policy w f p =>
    ⟨fitPrice_drawn, fitPrice_trimmed, fitPrice_dashes, sequenceWidth_fitPrice_le advances policy w f p⟩

end Sys2Proof.Machine
end

section
/-! PROOFS. O23 and O24: SLOT PUT, SLOT DROP and SLOT GET (R36 to R42, R62). -/

namespace Sys2Proof.Machine

/-! ## Slots under the count of commands -/

/-- R161: binding or freeing a slot and counting the command are independent. -/
theorem rebindSlot_countTaken (n : Nat) (r : Option SlotRecord) (s : State) :
    s.countTaken.rebindSlot n r = (s.rebindSlot n r).countTaken := by
  by_cases missing : (s.slot n).missing = true
  · have left : s.countTaken.rebindSlot n r = (s.putSlot n ((s.slot n).rebind r)).countTaken.raisePhotoWatch :=
      if_pos missing
    have right : s.rebindSlot n r = (s.putSlot n ((s.slot n).rebind r)).raisePhotoWatch := if_pos missing
    rw [left, right]
    simp only [State.raisePhotoWatch]
    rw [State.raise_eq, State.raise_eq (s := s.putSlot n _)]
    rw [State.raise_notices_congr _ _ (s := (s.putSlot n ((s.slot n).rebind r)).countTaken)
      (t := s.putSlot n ((s.slot n).rebind r)) rfl]
    rfl
  · have left : s.countTaken.rebindSlot n r = (s.putSlot n ((s.slot n).rebind r)).countTaken := if_neg missing
    have right : s.rebindSlot n r = s.putSlot n ((s.slot n).rebind r) := if_neg missing
    rw [left, right]

/-- R40, R41: the state and reply of a command that binds or frees a slot. -/
theorem settle_rebindSlot (code : Byte) (n : Nat) (r : Option SlotRecord) (s : State) (body : List Byte) :
    (Answer.done (s.countTaken.rebindSlot n r) body).settle code = (s.rebindSlot n r).replied code .done body := by
  rw [rebindSlot_countTaken, settle_done]

/-! ## The record of a SLOT PUT body (R37 to R40) -/

theorem readSlot_align (b : List Byte) :
    (u8 b 17 = 0 → (readSlot b).align = .left) ∧ (u8 b 17 = 1 → (readSlot b).align = .right) ∧
      (u8 b 17 = 2 → (readSlot b).align = .centre) :=
  ⟨fun h => by simp [readSlot, h], fun h => by simp [readSlot, h], fun h => by simp [readSlot, h]⟩

theorem readSlot_policy (b : List Byte) :
    (u8 b 30 = 0 → (readSlot b).policy = .trimThenDash) ∧ (u8 b 30 = 1 → (readSlot b).policy = .dash) :=
  ⟨fun h => by simp [readSlot, h], fun h => by simp [readSlot, h]⟩

theorem readSlot_watchMode (b : List Byte) :
    (u8 b 40 = 0 → (readSlot b).watchMode = .off) ∧ (u8 b 40 = 1 → (readSlot b).watchMode = .matching) ∧
      (u8 b 40 = 2 → (readSlot b).watchMode = .still) :=
  ⟨fun h => by simp [readSlot, h], fun h => by simp [readSlot, h], fun h => by simp [readSlot, h]⟩

/-- R37: the glyph set and the tolerance are in range, so they are the bytes of the body. -/
theorem readSlot_numbers {b : List Byte} (good : slotFieldsGood b = true) :
    (readSlot b).glyphSet.val = u8 b 18 ∧ (readSlot b).tolerance.val = u8 b 44 := by
  have ranges := (slotFieldsGood_iff b).mp good
  exact ⟨val_finOfNat (by omega), val_finOfNat (by omega)⟩

/-- R38, R39: each treatment of the record is the one of its three bytes; a card that passes the checks is 1 to 63. -/
theorem readSlot_treatment {b : List Byte} (good : slotFieldsGood b = true) {i : Nat} {treatment : Treatment}
    (place : (i = 31 ∧ treatment = (readSlot b).soldOut) ∨ (i = 34 ∧ treatment = (readSlot b).offMenu) ∨
      (i = 37 ∧ treatment = (readSlot b).photoMissing)) :
    (u8 b i = 0 → treatment.action = .keep) ∧ (u8 b i = 1 → treatment.action = .dim (u8 b (i + 1))) ∧
      (u8 b i = 2 → ∃ k : Fin 63, k.val + 1 = u8 b (i + 1) ∧ treatment.action = .cover k) ∧
      treatment.hide = decide (u8 b (i + 2) = 1) := by
  obtain ⟨-, -, -, -, -, -, -, -, -, -, -, -, -, -, -, -, -, -, treatments, -⟩ := (slotFieldsGood_iff b).mp good
  have checked := treatments i (place.imp And.left (Or.imp And.left And.left))
  have read : treatment = readTreatment b i := by
    rcases place with ⟨rfl, same⟩ | ⟨rfl, same⟩ | ⟨rfl, same⟩ <;> exact same
  obtain ⟨keep, dim, cover, hide⟩ := readTreatment_fields b i
  rw [read]
  exact ⟨keep, dim, fun covers => cover covers (by omega) (by omega), hide⟩

/-! ## SLOT PUT (R39, R40) -/

theorem exec_slotPut {s : State} (taken : s.Takes) (b : List Byte) :
    exec (.slotPut b) s = .next ((slotPut b s.countTaken).settle 0x30) := congrArg Host.Outcome.next (sendCommand_takes taken)

theorem slotPut_badLength {b : List Byte} (length : b.length ≠ 47) (s : State) : slotPut b s = .refuse s .badLength :=
  if_pos length

theorem slotPut_badField {b : List Byte} (length : b.length = 47) (bad : slotFieldsGood b = false) (s : State) :
    slotPut b s = .refuse s .badField := by
  simp [slotPut, length, bad]

theorem slotPut_binds {b : List Byte} (length : b.length = 47) (good : slotFieldsGood b = true) (s : State) :
    slotPut b s =
      .done (s.rebindSlot (u8 b 0) (some (readSlot b)))
        ([BitVec.ofNat 8 (u8 b 0), if (s.slot (u8 b 0)).record.isSome then 1 else 0] ++
          put16 (boundCount (s.rebindSlot (u8 b 0) (some (readSlot b))).slots)) := by
  simp [slotPut, length, good, putFlag_eq]

/-- R40: a good SLOT PUT, with its reply and its count as taken. -/
theorem exec_slotPut_binds {s : State} (taken : s.Takes) {b : List Byte} (length : b.length = 47)
    (good : slotFieldsGood b = true) :
    exec (.slotPut b) s =
      .next ((s.rebindSlot (u8 b 0) (some (readSlot b))).replied 0x30 .done
        ([BitVec.ofNat 8 (u8 b 0), if (s.slot (u8 b 0)).record.isSome then 1 else 0] ++
          put16 (boundCount (s.rebindSlot (u8 b 0) (some (readSlot b))).slots))) := by
  rw [exec_slotPut taken, slotPut_binds length good, settle_rebindSlot, rebindSlot_countTaken]
  rfl

/-- Settles O23: the field checks, the refusals, and the slot bound to the record that the body gives. -/
theorem slotPutBinds : Obligations.SlotPutBinds := by
  refine ⟨fun s n => rfl,
    fun slots => ⟨List.countP_eq_length_filter.symm, List.countP_eq_length_filter.symm⟩, slotFieldsGood_iff, ?_⟩
  intro b s taken
  refine ⟨fun length => ?_, fun length bad => ?_, fun length good => ?_⟩
  · rw [exec_slotPut taken, slotPut_badLength length, settle_refuse]
  · rw [exec_slotPut taken, slotPut_badField length bad, settle_refuse]
  · obtain ⟨left, right, centre⟩ := readSlot_align b
    obtain ⟨trim, dash⟩ := readSlot_policy b
    obtain ⟨off, matching, still⟩ := readSlot_watchMode b
    obtain ⟨glyphSet, tolerance⟩ := readSlot_numbers good
    obtain ⟨frame, bound, others, notices⟩ := rebindSlot_spec (u8 b 0) (some (readSlot b)) s
    exact ⟨readSlot b, s.rebindSlot (u8 b 0) (some (readSlot b)), slotBody_readSlot b length good,
      rfl, rfl, rfl, rfl, rfl, rfl, rfl, rfl, glyphSet, rfl, rfl, rfl, left, right, centre, rfl, rfl, rfl, trim, dash,
      fun i treatment place => readSlot_treatment good place, off, matching, still, rfl, tolerance,
      exec_slotPut_binds taken length good, frame, bound, others, notices⟩

/-! ## SLOT DROP and SLOT GET (R41, R42) -/

theorem exec_slotDrop {s : State} (taken : s.Takes) (b : List Byte) :
    exec (.slotDrop b) s = .next ((slotDrop b s.countTaken).settle 0x31) := congrArg Host.Outcome.next (sendCommand_takes taken)

theorem exec_slotGet {s : State} (taken : s.Takes) (b : List Byte) :
    exec (.slotGet b) s = .next ((slotGet b s.countTaken).settle 0x32) := congrArg Host.Outcome.next (sendCommand_takes taken)

theorem slotDrop_badLength {b : List Byte} (length : b.length ≠ 1) (s : State) : slotDrop b s = .refuse s .badLength :=
  if_pos length

theorem slotGet_badLength {b : List Byte} (length : b.length ≠ 1) (s : State) : slotGet b s = .refuse s .badLength :=
  if_pos length

theorem slotDrop_vacant {b : List Byte} (length : b.length = 1) {s : State} (vacant : (s.slot (u8 b 0)).record = none) :
    slotDrop b s = .refuse s .noEntry := by
  simp [slotDrop, length, vacant]

theorem slotGet_vacant {b : List Byte} (length : b.length = 1) {s : State} (vacant : (s.slot (u8 b 0)).record = none) :
    slotGet b s = .refuse s .noEntry := by
  simp [slotGet, length, vacant]

theorem slotDrop_bound {b : List Byte} (length : b.length = 1) {s : State} {r : SlotRecord}
    (bound : (s.slot (u8 b 0)).record = some r) :
    slotDrop b s = .done (s.rebindSlot (u8 b 0) none) (put16 (boundCount (s.rebindSlot (u8 b 0) none).slots)) := by
  simp [slotDrop, length, bound]

theorem slotGet_bound {b : List Byte} (length : b.length = 1) {s : State} {r : SlotRecord}
    (bound : (s.slot (u8 b 0)).record = some r) :
    slotGet b s =
      .done s
        (slotBody (u8 b 0) r ++ put16 (s.slot (u8 b 0)).counter ++ [if (s.slot (u8 b 0)).missing then 1 else 0]) := by
  simp [slotGet, length, bound, putFlag_eq]

/-- R41: a SLOT DROP of a BOUND slot, with its reply and its count as taken. -/
theorem exec_slotDrop_bound {s : State} (taken : s.Takes) {b : List Byte} (length : b.length = 1) {r : SlotRecord}
    (bound : (s.slot (u8 b 0)).record = some r) :
    exec (.slotDrop b) s =
      .next ((s.rebindSlot (u8 b 0) none).replied 0x31 .done (put16 (boundCount (s.rebindSlot (u8 b 0) none).slots))) := by
  rw [exec_slotDrop taken, slotDrop_bound (s := s.countTaken) length bound, settle_rebindSlot, rebindSlot_countTaken]
  rfl

/-- Settles O24: the refusals of both commands, the slot freed and the record returned. -/
theorem slotDropAndGet : Obligations.SlotDropAndGet := by
  intro b s taken
  refine ⟨fun length => ⟨?_, ?_⟩, fun length vacant => ⟨?_, ?_⟩, fun length r bound => ⟨?_, ?_⟩⟩
  · rw [exec_slotDrop taken, slotDrop_badLength length, settle_refuse]
  · rw [exec_slotGet taken, slotGet_badLength length, settle_refuse]
  · rw [exec_slotDrop taken, slotDrop_vacant (s := s.countTaken) length vacant, settle_refuse]
  · rw [exec_slotGet taken, slotGet_vacant (s := s.countTaken) length vacant, settle_refuse]
  · exact ⟨s.rebindSlot (u8 b 0) none, exec_slotDrop_bound taken length bound, rebindSlot_spec (u8 b 0) none s⟩
  · refine ⟨_, rfl, length_slotBody _ r, ?_⟩
    rw [exec_slotGet taken, slotGet_bound (s := s.countTaken) length bound, settle_done]
    rfl

end Sys2Proof.Machine
end

section
/-! PROOFS. O25: the view of a slot and what it draws (R48 to R53, R24, R31). -/

namespace Sys2Proof.Machine

/-! ## The action, the price and the badge of a view -/

/-- R51: a cover whose card is READY draws it. -/
theorem drawnAction_cover_ready {art : Art} {k : Fin 63} (ready : ∃ c, readyCard art k = some c) (r : SlotRecord) :
    drawnAction art r (.cover k) = .coverCard k :=
  if_pos (Option.isSome_iff_exists.mpr ready)

/-- R51: a cover whose card is not READY draws the paper, or black where the paper is CLEAR. -/
theorem drawnAction_cover_missing {art : Art} {k : Fin 63} (missing : readyCard art k = none) (r : SlotRecord) :
    drawnAction art r (.cover k) = .coverFallback (if r.paperClear then { r := 0, g := 0, b := 0 } else r.paper) := by
  simp [drawnAction, missing]

/-- R24: FORMAT MODE chooses the global format or the item's. -/
theorem formatFor_eq {s : State} {i : Item} {f : Format}
    (chosen : (s.formatMode.perItem = false ∧ f = s.formats[s.formatMode.number]) ∨
      (s.formatMode.perItem = true ∧ f = s.formats[i.format])) : formatFor s.formats s.formatMode i = f := by
  rcases chosen with ⟨mode, rfl⟩ | ⟨mode, rfl⟩ <;> simp [formatFor, mode]

/-- R31: NO_ART while the glyph set is not READY. -/
theorem drawnPrice_noArt {s : State} {r : SlotRecord} (missing : readyGlyphSet s.art r.glyphSet = none) (i : Item) (p : Nat) :
    drawnPrice s r i p = { glyphSet := r.glyphSet, glyphs := [], outcome := .noArt } := by
  simp only [drawnPrice, missing]

/-- R31: in a READY glyph set a price is drawn as the fit gives it. -/
theorem drawnPrice_fit {s : State} {r : SlotRecord} {h : Nat} {advances : List Nat} {image : List Byte}
    (ready : readyGlyphSet s.art r.glyphSet = some (h, advances, image)) (i : Item) (p : Nat) :
    drawnPrice s r i p =
      { glyphSet := r.glyphSet
        glyphs := (fitPrice advances r.policy r.fieldW (formatFor s.formats s.formatMode i) p).2
        outcome := (fitPrice advances r.policy r.fieldW (formatFor s.formats s.formatMode i) p).1 } := by
  simp only [drawnPrice, ready]

/-- R53: the badge is drawn while its card is READY. -/
theorem drawnBadge_eq_filter (art : Art) (i : Item) :
    drawnBadge art i = i.badge.filter (fun k => (readyCard art k).isSome) := by
  unfold drawnBadge
  cases i.badge with
  | none => rfl
  | some k => rfl

/-! ## The cases of R48, in their order -/

section
variable {s : State} {bank : Bank} {t : Slot} {r : SlotRecord} {i : Item} {p : Nat}

theorem slotView_vacant (vacant : t.record = none) : slotView s bank t = none := by
  simp only [slotView, vacant, Option.map_none]

theorem slotView_bound (bound : t.record = some r) : slotView s bank t = some (boundView s bank t.missing r) := by
  simp only [slotView, bound, Option.map_some]

/-- R48, R49: the item does not exist. -/
theorem slotView_orphan (bound : t.record = some r) (absent : Table.find? s.items r.item = none) :
    slotView s bank t = some { kind := .orphan, record := r, action := .nothing, price := none, badge := none } := by
  simp only [slotView_bound bound, boundView, absent, orphanView]

/-- R48, R50: the item has no price in the bank. -/
theorem slotView_offMenu (bound : t.record = some r) (found : Table.find? s.items r.item = some i)
    (absent : i.price bank = none) :
    slotView s bank t =
      some { kind := .offMenu, record := r, action := drawnAction s.art r r.offMenu.action, price := none, badge := none } := by
  simp only [slotView_bound bound, boundView, found, absent, treatedView, ite_self]

/-- R48: the item has a price in the bank. -/
theorem slotView_present (bound : t.record = some r) (found : Table.find? s.items r.item = some i)
    (priced : i.price bank = some p) : slotView s bank t = some (presentView s t.missing r i p) := by
  simp only [slotView_bound bound, boundView, found, priced]

theorem presentView_soldOut (soldOut : i.mergedSoldOut s.lines = true) (missing : Bool) :
    presentView s missing r i p =
      { kind := .soldOut, record := r, action := drawnAction s.art r r.soldOut.action
        price := if r.soldOut.hide then none else some (drawnPrice s r i p), badge := none } :=
  if_pos soldOut

theorem presentView_noPhoto (inStock : i.mergedSoldOut s.lines = false) :
    presentView s true r i p =
      { kind := .noPhoto, record := r, action := drawnAction s.art r r.photoMissing.action
        price := if r.photoMissing.hide then none else some (drawnPrice s r i p), badge := none } := by
  simp [presentView, inStock, treatedView]

theorem presentView_priced (inStock : i.mergedSoldOut s.lines = false) :
    presentView s false r i p =
      { kind := .priced, record := r, action := .nothing, price := some (drawnPrice s r i p)
        badge := i.badge.filter (fun k => (readyCard s.art k).isSome) } := by
  simp [presentView, inStock, drawnBadge_eq_filter]

end

/-- Settles O25: what an action, a price and a badge draw, then each view of R48 in its order. -/
theorem viewPrecedence : Obligations.ViewPrecedence := by
  refine ⟨fun art k w h fill pixels => readyCard_eq_some, fun art n h advances image => readyGlyphSet_eq_some,
    fun art r level k => ⟨rfl, rfl, fun ready => drawnAction_cover_ready ready r, fun missing => ?_⟩,
    fun s r i p => ⟨fun missing => drawnPrice_noArt missing i p, fun h advances image f outcome glyphs ready chosen fit => ?_⟩,
    fun i => ⟨rfl, rfl⟩,
    fun s bank t => ⟨slotView_vacant, fun r bound => ⟨slotView_orphan bound, fun i found =>
      ⟨slotView_offMenu bound found, fun p priced => ?_⟩⟩⟩⟩
  · rw [drawnAction_cover_missing missing]
    exact ⟨fun opaquePaper => by rw [opaquePaper]; rfl, fun clear => by rw [clear]; rfl⟩
  · rw [drawnPrice_fit ready, formatFor_eq chosen, fit]
  · rw [slotView_present bound found priced]
    refine ⟨fun soldOut => ?_, fun inStock missing => ?_, fun inStock seen => ?_⟩
    · rw [presentView_soldOut soldOut]
    · rw [missing, presentView_noPhoto inStock]
    · rw [seen, presentView_priced inStock]

end Sys2Proof.Machine
end

section
/-! PROOFS. O51: the pixels and the margin bytes that an output sends (R25, R32, R33, R44 to R56, R125 to R128, R167). -/

namespace Sys2Proof.Machine

/-! ## The canvas (R148) -/

theorem Canvas.pixel_live {c : Canvas} {y : Nat} {row : List Colour} (received : c.live[y]? = some row) (x : Nat) :
    c.pixel x y = row.getD x black := by
  obtain ⟨inRange, _⟩ := List.getElem?_eq_some_iff.mp received
  rw [Canvas.pixel, if_pos inRange, List.getD_eq_getElem?_getD (l := c.live), received, Option.getD_some]

theorem Canvas.pixel_noBack {c : Canvas} {y : Nat} (below : c.live.length ≤ y) (back : c.back = none) (x : Nat) :
    c.pixel x y = black := by
  rw [Canvas.pixel, if_neg (Nat.not_lt.mpr below), back]

theorem Canvas.pixel_back {c : Canvas} {y : Nat} {p : Picture} (below : c.live.length ≤ y) (back : c.back = some p) (x : Nat) :
    c.pixel x y = p.pixel x y := by
  rw [Canvas.pixel, if_neg (Nat.not_lt.mpr below), back]

theorem Picture.pixel_outside {p : Picture} {x y : Nat} (out : p.geometry.width ≤ x ∨ p.geometry.height ≤ y) :
    p.pixel x y = black := if_neg (by omega)

theorem Picture.pixel_inside {p : Picture} {x y : Nat} (column : x < p.geometry.width) (row : y < p.geometry.height) :
    p.pixel x y = (p.rows.getD y []).getD x black := if_pos ⟨column, row⟩

/-! ## One slot (R44, R46, R50, R51, R53) -/

theorem SlotView.drawAt_outside {v : SlotView} {x y : Nat}
    (out : x < v.record.x ∨ v.record.x + v.record.width ≤ x ∨ y < v.record.y ∨ v.record.y + v.record.height ≤ y)
    (art : Art) (under : Colour) : v.drawAt art x y under = under := if_neg (by omega)

theorem SlotView.drawAt_inside {v : SlotView} {x y : Nat} (left : v.record.x ≤ x) (right : x < v.record.x + v.record.width)
    (top : v.record.y ≤ y) (bottom : y < v.record.y + v.record.height) (art : Art) (under : Colour) :
    v.drawAt art x y under = v.draw art (x - v.record.x) (y - v.record.y) under := if_pos ⟨left, right, top, bottom⟩

/-- R45: the slot with the highest number is drawn last, over what the others drew. -/
theorem FrameView.drawAt_append (art : Art) (v : FrameView) (n : Nat) (w : SlotView) (x y : Nat) (under : Colour) :
    FrameView.drawAt art (v ++ [(n, w)]) x y under = w.drawAt art x y (FrameView.drawAt art v x y under) := by
  simp only [FrameView.drawAt, List.foldl_append, List.foldl_cons, List.foldl_nil]

section
variable {art : Art} {k : Fin 63} {w h : Nat} {fill : Colour} {pixels : List Byte}

/-- R51: the card of a cover, in the middle of the slot over its own fill. -/
theorem drawAction_coverCard (ready : readyCard art k = some (w, h, fill, pixels)) (r : SlotRecord) (x y : Nat)
    (under : Colour) :
    drawAction art r (.coverCard k) x y under =
      overCard w h pixels ((x : Int) - ((r.width : Int) - w) / 2) ((y : Int) - ((r.height : Int) - h) / 2) fill := by
  simp only [drawAction, ready]

theorem drawBadge_missing (missing : readyCard art k = none) (r : SlotRecord) (x y : Nat) (under : Colour) :
    drawBadge art r (some k) x y under = under := by
  simp only [drawBadge, missing]

/-- R53: the badge at the badge offset. -/
theorem drawBadge_ready (ready : readyCard art k = some (w, h, fill, pixels)) (r : SlotRecord) (x y : Nat) (under : Colour) :
    drawBadge art r (some k) x y under = overCard w h pixels ((x : Int) - r.badgeX) ((y : Int) - r.badgeY) under := by
  simp only [drawBadge, ready]

/-! ## The standby card (R128) -/

theorem OutputFrame.standbyPixel_none {o : OutputFrame} (noCard : o.standby = none) (art : Art) (col row : Nat) :
    o.standbyPixel art col row = black := by
  simp only [OutputFrame.standbyPixel, noCard]

theorem OutputFrame.standbyPixel_missing {o : OutputFrame} (card : o.standby = some k) (missing : readyCard art k = none)
    (col row : Nat) : o.standbyPixel art col row = black := by
  simp only [OutputFrame.standbyPixel, card, missing]

theorem OutputFrame.standbyPixel_ready {o : OutputFrame} (card : o.standby = some k)
    (ready : readyCard art k = some (w, h, fill, pixels)) (col row : Nat) :
    o.standbyPixel art col row =
      overCard w h pixels (col - ((o.rasterWidth : Int) - w) / 2) (row - ((o.rasterHeight : Int) - h) / 2) black := by
  simp only [OutputFrame.standbyPixel, card, ready]

end

/-! ## The price field (R32, R33) -/

/-- R32, R52: no price drawn, no box. -/
theorem drawPrice_undrawn {art : Art} {p : PriceDraw}
    (undrawn : p.outcome = .nothing ∨ p.outcome = .noArt ∨ readyGlyphSet art p.glyphSet = none) (r : SlotRecord) (x y : Nat)
    (under : Colour) : drawPrice art r (some p) x y under = under := by
  cases found : readyGlyphSet art p.glyphSet with
  | none => simp only [drawPrice, found]
  | some set =>
    have noBox : p.outcome.draws = false := by
      rcases undrawn with nothing | noArt | missing
      · rw [nothing]; rfl
      · rw [noArt]; rfl
      · rw [found] at missing; cases missing
    rw [drawPrice_ready found, noBox]
    exact if_neg (fun inBox => Bool.false_ne_true inBox.1)

section
variable {art : Art} {r : SlotRecord} {p : PriceDraw} {h : Nat} {advances : List Nat} {image : List Byte} {x y : Nat}

/-- R32: beyond the field box the price draws nothing. -/
theorem drawPrice_outside (ready : readyGlyphSet art p.glyphSet = some (h, advances, image))
    (out : x < r.fieldX ∨ r.fieldX + r.fieldW ≤ x ∨ y < r.fieldY ∨ r.fieldY + h ≤ y) (under : Colour) :
    drawPrice art r (some p) x y under = under := by
  rw [drawPrice_ready ready]
  exact if_neg (by omega)

/-- R32: within the field box the price draws the box, counted from its top-left pixel. -/
theorem drawPrice_inside (ready : readyGlyphSet art p.glyphSet = some (h, advances, image)) (draws : p.outcome.draws = true)
    {col row : Nat} (column : col < r.fieldW) (line : row < h) (under : Colour) :
    drawPrice art r (some p) (r.fieldX + col) (r.fieldY + row) under = drawBox r advances image p.glyphs col row under := by
  rw [drawPrice_ready ready, if_pos ⟨draws, by omega, by omega, by omega, by omega⟩, Nat.add_sub_cancel_left,
    Nat.add_sub_cancel_left]

end

/-- R32: where the sequence starts, by the alignment. -/
theorem sequenceStart_eq {align : Alignment} {w s start : Nat}
    (placed : (align = .left ∧ start = 0) ∨ (align = .right ∧ start = w - s) ∨ (align = .centre ∧ start = (w - s) / 2)) :
    sequenceStart align w s = start := by
  rcases placed with ⟨rfl, rfl⟩ | ⟨rfl, rfl⟩ | ⟨rfl, rfl⟩ <;> rfl

/-- R32, R33: the box of a drawn price: its background beside the sequence, and each glyph's ink with its coverage. -/
theorem drawPrice_box {art : Art} {r : SlotRecord} {p : PriceDraw} {h : Nat} {advances : List Nat} {image : List Byte}
    (ready : readyGlyphSet art p.glyphSet = some (h, advances, image)) {col row : Nat}
    (draws : p.outcome = .drawn ∨ p.outcome = .trimmed ∨ p.outcome = .dashed ∨ p.outcome = .blank)
    (column : col < r.fieldW) (line : row < h) {start : Nat}
    (placed : (r.align = .left ∧ start = 0) ∨ (r.align = .right ∧ start = r.fieldW - sequenceWidth advances p.glyphs) ∨
      (r.align = .centre ∧ start = (r.fieldW - sequenceWidth advances p.glyphs) / 2)) (under : Colour) :
    (col < start ∨ start + sequenceWidth advances p.glyphs ≤ col →
      drawPrice art r (some p) (r.fieldX + col) (r.fieldY + row) under = if r.paperClear then under else r.paper) ∧
    ∀ (before after : List Nat) (g within : Nat), p.glyphs = before ++ g :: after →
      within < advances.getD g 0 → col = start + sequenceWidth advances before + within →
      drawPrice art r (some p) (r.fieldX + col) (r.fieldY + row) under =
        blendOver (if r.paperClear then under else r.paper) r.ink
          (image.getD (row * advances.sum + (advances.take g).sum + within) 0).toNat := by
  obtain rfl := sequenceStart_eq placed
  rw [drawPrice_inside ready ((FitOutcome.draws_iff _).mpr draws) column line]
  refine ⟨drawBox_beside r advances image p.glyphs row under, ?_⟩
  rintro before after g within glyphs inGlyph rfl
  rw [glyphs]
  exact drawBox_glyph r advances image before after row under inGlyph

/-! ## What an output sends (R125 to R127, R163, R164, R167) -/

section
variable {s : State} {k : Fin 4} {col row : Nat}

/-- Between a full reset and the next frame start (log 16). -/
theorem outputPixel_noFrame (closed : s.frame = none) : s.outputPixel k col row = s.resetPixel k col row := by
  simp only [State.outputPixel, closed]

theorem marginByte_noFrame (closed : s.frame = none) (offset : Nat) : s.marginByte k offset = none := by
  simp only [State.marginByte, closed]

theorem resetPixel_black (released : s.resetPin = false) (enabled : s.outputs[k].enabled = true)
    (column : col < s.outputs[k].width) (line : row < s.outputs[k].height) : s.resetPixel k col row = some black :=
  if_pos ⟨released, enabled, column, line⟩

theorem resetPixel_noSignal
    (silent : s.resetPin = true ∨ s.outputs[k].enabled = false ∨ s.outputs[k].width ≤ col ∨ s.outputs[k].height ≤ row) :
    s.resetPixel k col row = none := by
  refine if_neg ?_
  rintro ⟨released, enabled, column, line⟩
  rcases silent with held | disabled | beyond | beyond
  · exact Bool.false_ne_true (released.symm.trans held)
  · exact Bool.false_ne_true (disabled.symm.trans enabled)
  · exact Nat.not_le.mpr column beyond
  · exact Nat.not_le.mpr line beyond

variable {f : OpenFrame}

/-- R125: a disabled output has no frame and sends nothing. -/
theorem outputPixel_disabled (opened : s.frame = some f) (disabled : f.outputs[k] = none) :
    s.outputPixel k col row = none := by
  simp only [State.outputPixel, opened, disabled]

theorem marginByte_open (opened : s.frame = some f) (offset : Nat) :
    s.marginByte k offset = f.outputs[k].map (fun o => o.margin.getD offset 0xFF) := by
  simp only [State.marginByte, opened]

variable {o : OutputFrame}

theorem outputPixel_beyond (opened : s.frame = some f) (sends : f.outputs[k] = some o)
    (out : o.rasterWidth ≤ col ∨ o.rasterHeight ≤ row) : s.outputPixel k col row = none := by
  simp only [State.outputPixel, opened, sends]
  exact if_neg (by omega)

/-- R128: without a canvas the raster holds the standby card. -/
theorem outputPixel_standby (opened : s.frame = some f) (sends : f.outputs[k] = some o) (column : col < o.rasterWidth)
    (line : row < o.rasterHeight) (dark : f.canvas = none) :
    s.outputPixel k col row = some (o.standbyPixel f.art col row) := by
  simp only [State.outputPixel, opened, sends, dark]
  exact if_pos ⟨column, line⟩

/-- R126: with a canvas the raster holds the window of the group's picture. -/
theorem outputPixel_window (opened : s.frame = some f) (sends : f.outputs[k] = some o) (column : col < o.rasterWidth)
    (line : row < o.rasterHeight) {c : Canvas} (canvas : f.canvas = some c) :
    s.outputPixel k col row = some (o.windowPixel f.art c s.pictures[o.group] col row) := by
  simp only [State.outputPixel, opened, sends, canvas]
  exact if_pos ⟨column, line⟩

end

section
variable {o : OutputFrame} {c : Canvas} {col row : Nat}

theorem OutputFrame.windowPixel_inside (column : col < o.width) (line : row < o.height)
    (canvasColumn : o.x + col < c.geometry.width) (canvasLine : o.y + row < c.geometry.height) (art : Art) (p : GroupPicture) :
    o.windowPixel art c p col row = p.pixel art c (o.x + col) (o.y + row) :=
  if_pos ⟨column, line, canvasColumn, canvasLine⟩

/-- R127: beyond the window or the canvas the raster is black. -/
theorem OutputFrame.windowPixel_outside
    (out : o.width ≤ col ∨ o.height ≤ row ∨ c.geometry.width ≤ o.x + col ∨ c.geometry.height ≤ o.y + row) (art : Art)
    (p : GroupPicture) : o.windowPixel art c p col row = black := if_neg (by omega)

end

/-! ## The statement -/

/-- Settles O51: each function that draws, from the output's raster down to the component of a colour. -/
theorem pixelsSent : Obligations.PixelsSent := by
  refine ⟨rfl, fun s k col row offset closed => ?noFrame, fun s k col row offset f opened => ⟨fun disabled => ?disabled,
      fun o sends => ⟨?margin, outputPixel_beyond opened sends, fun column line => ?raster⟩⟩,
    fun c x y => ⟨fun r received => Canvas.pixel_live received x, fun below back => Canvas.pixel_noBack below back x,
      fun p below back => ?back⟩,
    fun art v x y under => ⟨fun out => SlotView.drawAt_outside out art under,
      fun left right top bottom => SlotView.drawAt_inside left right top bottom art under⟩,
    fun art v n w x y under => ⟨rfl, FrameView.drawAt_append art v n w x y under⟩,
    fun art c leaving entering k F x y => ⟨rfl, rfl⟩,
    fun art k w h fill pixels => readyCard_eq_some, fun art n h advances image => readyGlyphSet_eq_some,
    fun w h pixels dx dy under => ⟨overCard_outside pixels under, ?card⟩,
    fun art r x y under => ⟨rfl, fun level => rfl, fun colour => rfl,
      fun k w h fill pixels ready => drawAction_coverCard ready r x y under, rfl,
      fun k => ⟨fun missing => drawBadge_missing missing r x y under,
        fun w h fill pixels ready => drawBadge_ready ready r x y under⟩⟩,
    fun art r x y under => ⟨rfl, fun p => ⟨fun undrawn => drawPrice_undrawn undrawn r x y under,
      fun h advances image ready => ⟨fun out => drawPrice_outside ready out under, ?box⟩⟩⟩,
    fun n d positive => nearest_bounds n positive,
    fun p q a k F level part alpha step dim which => ⟨blendOver_part p q alpha which, fadeColour_part p q step which,
      dimColour_part level p which⟩⟩
  case noFrame =>
    rw [outputPixel_noFrame closed]
    exact ⟨marginByte_noFrame closed offset, resetPixel_black, resetPixel_noSignal⟩
  case disabled =>
    rw [marginByte_open opened, disabled]
    exact ⟨outputPixel_disabled opened disabled, rfl⟩
  case margin =>
    rw [marginByte_open opened, sends]
    rfl
  case raster =>
    refine ⟨fun dark noCard => ?_, fun c dark card missing => ?_, fun c w h fill pixels dark card ready => ?_,
      fun c canvas => ⟨fun inColumn inLine canvasColumn canvasLine => ?_, fun out => ?_⟩⟩
    · rw [outputPixel_standby opened sends column line dark, OutputFrame.standbyPixel_none noCard]
    · rw [outputPixel_standby opened sends column line dark, OutputFrame.standbyPixel_missing card missing]
    · rw [outputPixel_standby opened sends column line dark, OutputFrame.standbyPixel_ready card ready]
    · rw [outputPixel_window opened sends column line canvas,
        OutputFrame.windowPixel_inside inColumn inLine canvasColumn canvasLine]
    · rw [outputPixel_window opened sends column line canvas, OutputFrame.windowPixel_outside out]
  case back =>
    rw [Canvas.pixel_back below back]
    exact ⟨Picture.pixel_outside, Picture.pixel_inside⟩
  case card =>
    rintro col row first rfl rfl column line rfl
    exact overCard_inside pixels under column line
  case box =>
    rintro col row start background draws rfl rfl column line rfl placed
    exact drawPrice_box ready draws column line placed under

end Sys2Proof.Machine
end

section
/-! PROOFS. O26 to O28: MARK, LINE PUT, LINE GET, and one sample of a stock line (R64 to R66, R71 to R76, R78). -/

namespace Sys2Proof.Machine

/-! ## Lines in force, classes out, merged sold-out (R4, R66, R68, R75) -/

/-- R66: a line is in force while it is ACTIVE and not masked. -/
theorem Line.inForce_iff (l : Line) : l.inForce = true ↔ l.active = true ∧ l.masked = false := by
  simp [Line.inForce]

theorem Line.inForce_of_inactive {l : Line} (inactive : l.active = false) : l.inForce = false := by
  simp [Line.inForce, inactive]

/-- R68: a line that marks a class out. -/
theorem Line.marksOut_iff (l : Line) (c : Fin 8) :
    l.marksOut c = true ↔ l.function = .classOut ∧ l.stockClass = c ∧ l.active = true ∧ l.masked = false := by
  simp only [Line.marksOut, Bool.and_eq_true, beq_iff_eq, Line.inForce_iff]
  tauto

theorem Line.marksOut_of_inactive {l : Line} (inactive : l.active = false) (c : Fin 8) : l.marksOut c = false := by
  simp [Line.marksOut, Line.inForce_of_inactive inactive]

/-- R68: a class is out while some line marks it. -/
theorem classOut_iff (lines : Vector Line 8) (c : Fin 8) :
    classOut lines c = true ↔ ∃ l : Fin 8, lines[l].marksOut c = true := by
  simp only [classOut, List.any_eq_true, Vector.mem_toList_iff]
  constructor
  · rintro ⟨line, member, marks⟩
    obtain ⟨k, bound, rfl⟩ := Vector.getElem_of_mem member
    exact ⟨⟨k, bound⟩, marks⟩
  · rintro ⟨l, marks⟩
    exact ⟨lines[l], Vector.getElem_mem l.isLt, marks⟩

/-- R4, R75: line sold-out, where the item's class is held out. -/
theorem Item.lineSoldOut_iff (lines : Vector Line 8) (i : Item) :
    i.lineSoldOut lines = true ↔
      ∃ (c : Fin 8) (l : Fin 8), i.stockClass = some c ∧ lines[l].function = .classOut ∧ lines[l].stockClass = c ∧
        lines[l].active = true ∧ lines[l].masked = false := by
  cases stock : i.stockClass with
  | none => simp [Item.lineSoldOut, stock]
  | some c =>
    simp only [Item.lineSoldOut, stock, classOut_iff, Line.marksOut_iff, Option.some.injEq, exists_and_left, exists_eq_left']

/-- R4, R75: merged sold-out. -/
theorem Item.mergedSoldOut_iff (lines : Vector Line 8) (i : Item) :
    i.mergedSoldOut lines = true ↔ i.soldOut = true ∨ (i.localOnly = false ∧ i.lineSoldOut lines = true) := by
  simp [Item.mergedSoldOut]

/-! ## MARK (R76, R78) -/

theorem exec_mark {s : State} (taken : s.Takes) (b : List Byte) :
    exec (.mark b) s = .next ((mark b s.countTaken).settle 0x40) := congrArg Host.Outcome.next (sendCommand_takes taken)

theorem mark_badLength {b : List Byte} (length : b.length ≠ 3) (s : State) : mark b s = .refuse s .badLength :=
  if_pos length

theorem mark_badField {b : List Byte} (length : b.length = 3) (bad : u16 b 0 = 0 ∨ 2 ≤ u8 b 2) (s : State) :
    mark b s = .refuse s .badField := by
  rw [mark, if_neg (not_not.mpr length), if_pos bad]

theorem mark_noEntry {b : List Byte} (length : b.length = 3) (code : u16 b 0 ≠ 0) (flag : u8 b 2 < 2) {s : State}
    (absent : Table.find? s.items (u16 b 0) = none) : mark b s = .refuse s .noEntry := by
  rw [mark, if_neg (not_not.mpr length), if_neg (by omega), absent]

/-- R76: the flag is written whatever it was before. -/
theorem mark_found {b : List Byte} (length : b.length = 3) (code : u16 b 0 ≠ 0) (flag : u8 b 2 < 2) {s : State} {old : Item}
    (found : Table.find? s.items (u16 b 0) = some old) {new : Item}
    (marked : new = { old with soldOut := decide (u8 b 2 = 1) }) :
    mark b s = .done (s.putItem (u16 b 0) new) (soldOutBody s.lines new) := by
  rw [mark, if_neg (not_not.mpr length), if_neg (by omega), found, marked]
  rfl

/-- R161: writing an item and counting the command are independent. -/
theorem putItem_countTaken (code : Nat) (i : Item) (s : State) :
    s.countTaken.putItem code i = (s.putItem code i).countTaken :=
  countAvail_countTaken _ { s with items := Table.insert s.items code i }

/-- R78: what writing over a record counts. -/
theorem putItem_found {code : Nat} {s : State} {old : Item} (found : Table.find? s.items code = some old) (new : Item) :
    s.putItem code new =
      State.countAvail (if new.notify = true ∧ new.mergedSoldOut s.lines ≠ old.mergedSoldOut s.lines then 1 else 0)
        { s with items := Table.insert s.items code new } := by
  rw [State.putItem, found, itemChange_some]

/-- R76: the three values of a MARK reply, the first as it was sent. -/
theorem soldOutBody_marked (lines : Vector Line 8) {i : Item} {n : Nat} (flag : n < 2) (marked : i.soldOut = decide (n = 1)) :
    soldOutBody lines i =
      [BitVec.ofNat 8 n, if i.lineSoldOut lines then 1 else 0, if i.mergedSoldOut lines then 1 else 0] := by
  have value : i.soldOut.toNat = n := marked ▸ toNat_eq_one flag
  rw [soldOutBody, putFlag_eq (i.lineSoldOut lines), putFlag_eq (i.mergedSoldOut lines), putFlag, value]
  rfl

/-- Settles O26: merged sold-out from its parts, the refusals of MARK in order, and the record that it writes. -/
theorem markSetsSoldOut : Obligations.MarkSetsSoldOut := by
  refine ⟨fun lines i => ⟨i.lineSoldOut_iff lines, i.mergedSoldOut_iff lines⟩, ?_⟩
  intro b s taken
  rw [exec_mark taken]
  refine ⟨fun length => ?_, fun length bad => ?_, fun length code flag absent => ?_,
    fun length code flag old found new marked => ?_⟩
  · rw [mark_badLength length, settle_refuse]
  · rw [mark_badField length bad, settle_refuse]
  · rw [mark_noEntry (s := s.countTaken) length code flag absent, settle_refuse]
  · have value : new.soldOut = decide (u8 b 2 = 1) := congrArg Item.soldOut marked
    rw [mark_found (s := s.countTaken) length code flag found marked, putItem_countTaken, settle_done, putItem_found found,
      soldOutBody_marked _ flag value]
    rfl

/-! ## The fields of LINE PUT (R71) -/

theorem code_lineFunctionOf {n : Nat} (h : n < 4) : (lineFunctionOf n).code = n := by
  interval_cases n <;> rfl

/-- R71: the field checks. -/
theorem lineFieldsGood_iff (b : List Byte) :
    lineFieldsGood b = true ↔
      u8 b 0 < 8 ∧ u8 b 1 < 4 ∧ u8 b 2 < 2 ∧ 1 ≤ u8 b 3 ∧ u8 b 3 ≤ 15 ∧ u8 b 4 < 8 ∧ u8 b 5 < 16 ∧ u8 b 6 < 2 ∧ u8 b 7 < 2 :=
  decide_eq_true_iff

/-- R71: the seven configuration fields of the line that a body in range gives. -/
theorem configureLine_fields {b : List Byte} (good : lineFieldsGood b = true) (l : Line) :
    (configureLine b l).function.code = u8 b 1 ∧ (configureLine b l).activeHigh.toNat = u8 b 2 ∧
      (configureLine b l).debounce = u8 b 3 ∧ (configureLine b l).stockClass.val = u8 b 4 ∧
      (configureLine b l).groups.toNat = u8 b 5 ∧ (configureLine b l).target.code = u8 b 6 ∧
      (configureLine b l).masked.toNat = u8 b 7 := by
  obtain ⟨-, function, polarity, -, -, stock, groups, target, masked⟩ := (lineFieldsGood_iff b).mp good
  exact ⟨code_lineFunctionOf function, toNat_eq_one polarity, rfl, val_finOfNat stock, Nat.mod_eq_of_lt groups,
    code_bankOf target, toNat_eq_one masked⟩

/-- R71: the raw level and the debounced state stay. -/
theorem configureLine_kept (b : List Byte) (l : Line) :
    (configureLine b l).raw = l.raw ∧ (configureLine b l).active = l.active := ⟨rfl, rfl⟩

/-- R71: the run count starts again when the polarity or the debounce count changes. -/
theorem configureLine_run (b : List Byte) (l : Line) :
    (configureLine b l).run =
      if (configureLine b l).activeHigh = l.activeHigh ∧ (configureLine b l).debounce = l.debounce then l.run else 0 := by
  simp only [configureLine, eq_comm]

/-! ## The lines land (R67, R72, R78) -/

/-- R161: landing the lines and counting the command are independent. -/
theorem landLines_countTaken (touched : LineSet) (lines : Vector Line 8) (s : State) :
    State.landLines touched lines s.countTaken = (State.landLines touched lines s).countTaken :=
  countAvail_countTaken _
    { s with lines := lines, groups := tab (fun i => s.groups[i].reline touched (holdingLines lines i)) }

/-- R72: a line-hold set with one line's bit written: set when the line holds the group now, else cleared. -/
theorem andNot_or_and_oneLine (held holding : LineSet) (i : Fin 8) :
    (held &&& ~~~(oneLine i)) ||| (holding &&& oneLine i) =
      if holding.getLsbD i.val = true then held ||| oneLine i else held &&& ~~~(oneLine i) := by
  apply lineSet_ext
  intro j
  rw [apply_ite (fun w : LineSet => w.getLsbD j.val)]
  simp only [BitVec.getLsbD_or, BitVec.getLsbD_and, BitVec.getLsbD_not, oneLine_getLsbD, j.isLt, decide_true, Bool.true_and]
  by_cases same : i = j
  · subst same
    cases holding.getLsbD i.val <;> simp
  · simp [same]

/-- R69, R72: the groups' sets after an ACTIVE line was configured anew. -/
theorem reline_oneLine (lines : Vector Line 8) (i : Fin 8) {new : Line} (active : new.active = true) (g : Fin 4) (x : Group) :
    x.reline (oneLine i) (holdingLines (lines.set i new) g) =
      x.sourcesChanged
        { x with
          lineHold :=
            if new.masked = false ∧ new.function = .groupHold ∧ new.groups.getLsbD g.val = true then
              x.lineHold ||| oneLine i
            else x.lineHold &&& ~~~(oneLine i)
          disregarded := x.disregarded &&& ~~~(oneLine i) } := by
  have holds : (holdingLines (lines.set i new) g).getLsbD i.val = true ↔
      new.masked = false ∧ new.function = .groupHold ∧ new.groups.getLsbD g.val = true := by
    rw [holdingLines_getLsbD, getElem_set_fin, if_pos rfl]
    simp [Line.inForce, active, and_assoc]
  simp only [Group.reline, Group.relineSets, andNot_or_and_oneLine, holds]

/-- R78: the changes of merged sold-out, counted item by item. -/
theorem availChanges_eq (items : List (Nat × Item)) (before after : Vector Line 8) :
    availChanges items before after =
      items.countP (fun e => e.2.notify && e.2.mergedSoldOut before != e.2.mergedSoldOut after) :=
  List.countP_eq_length_filter.symm

/-- R68: a line that is INACTIVE before and after holds no class out. -/
theorem classOut_set_inactive {lines : Vector Line 8} {i : Fin 8} {new : Line} (before : lines[i].active = false)
    (after : new.active = false) (c : Fin 8) : classOut (lines.set i new) c = classOut lines c := by
  rw [Bool.eq_iff_iff, classOut_iff, classOut_iff]
  refine exists_congr fun l => ?_
  rw [getElem_set_fin]
  split
  · rename_i same
    rw [same, Line.marksOut_of_inactive before, Line.marksOut_of_inactive after]
  · rfl

theorem mergedSoldOut_set_inactive {lines : Vector Line 8} {i : Fin 8} {new : Line} (before : lines[i].active = false)
    (after : new.active = false) (item : Item) : item.mergedSoldOut (lines.set i new) = item.mergedSoldOut lines := by
  simp only [Item.mergedSoldOut, Item.lineSoldOut, classOut_set_inactive before after]

/-- R72: configuring an INACTIVE line withdraws and applies nothing. -/
theorem landLines_inactive {s : State} {i : Fin 8} {new : Line} (before : s.lines[i].active = false)
    (after : new.active = false) :
    (State.landLines (withdrawn i s.lines[i]) (s.lines.set i new) s).groups = s.groups ∧
      (State.landLines (withdrawn i s.lines[i]) (s.lines.set i new) s).notices = s.notices := by
  have nothing : withdrawn i s.lines[i] = 0 := by simp only [withdrawn, before, Bool.false_eq_true, if_false]
  have uncounted : availChanges s.items s.lines (s.lines.set i new) = 0 := by
    simp [availChanges, mergedSoldOut_set_inactive before after]
  rw [nothing]
  constructor
  · rw [State.landLines_groups]
    refine vector_ext_fin fun g => ?_
    rw [Fin.getElem_fin, getElem_tab, reline_zero]
  · rw [(landLines_spec 0 (s.lines.set i new) s).2, uncounted]
    rfl

/-! ## LINE PUT (R63, R71, R72, R97) -/

theorem exec_linePut {s : State} (taken : s.Takes) (b : List Byte) :
    exec (.linePut b) s = .next ((linePut b s.countTaken).settle 0x42) := congrArg Host.Outcome.next (sendCommand_takes taken)

theorem linePut_badLength {b : List Byte} (length : b.length ≠ 8) (s : State) : linePut b s = .refuse s .badLength :=
  if_pos length

theorem linePut_badField {b : List Byte} (length : b.length = 8) (bad : lineFieldsGood b = false) (s : State) :
    linePut b s = .refuse s .badField := by
  simp [linePut, length, bad]

theorem linePut_lands {b : List Byte} (length : b.length = 8) (good : lineFieldsGood b = true) {i : Fin 8}
    (number : u8 b 0 = i.val) (s : State) :
    linePut b s =
      .done (s.landLines (withdrawn i s.lines[i]) (s.lines.set i (configureLine b s.lines[i])))
        [BitVec.ofNat 8 i.val, if (configureLine b s.lines[i]).inForce then 1 else 0] := by
  obtain rfl : Fin.ofNat 8 (u8 b 0) = i := finOfNat_eq number
  simp [linePut, length, good, putFlag_eq]

/-- R71, R72, R159: the whole step of a LINE PUT that passes. -/
theorem exec_linePut_lands {b : List Byte} (length : b.length = 8) (good : lineFieldsGood b = true) {i : Fin 8}
    (number : u8 b 0 = i.val) {s : State} (taken : s.Takes) :
    exec (.linePut b) s =
      .next ((s.landLines (withdrawn i s.lines[i]) (s.lines.set i (configureLine b s.lines[i]))).replied 0x42 .done
        [BitVec.ofNat 8 i.val, if (configureLine b s.lines[i]).inForce then 1 else 0]) := by
  rw [exec_linePut taken, linePut_lands length good number]
  simp only [State.countTaken_frame, landLines_countTaken, settle_done]

/-- Settles O27: the refusals of LINE PUT, the line that it configures, and what lands with it. -/
theorem linePutReplaces : Obligations.LinePutReplaces := by
  refine ⟨⟨rfl, rfl, rfl, rfl, rfl, rfl⟩, oneLine_getLsbD, ?_⟩
  intro b s taken
  refine ⟨fun length => ?badLength, fun length out => ?badField,
    fun length function polarity low high stock groups target masked i number => ?lands⟩
  case badLength => rw [exec_linePut taken, linePut_badLength length, settle_refuse]
  case badField =>
    have bad : lineFieldsGood b = false := by
      rw [Bool.eq_false_iff, ne_eq, lineFieldsGood_iff]
      omega
    rw [exec_linePut taken, linePut_badField length bad, settle_refuse]
  case lands =>
    have good : lineFieldsGood b = true :=
      (lineFieldsGood_iff b).mpr ⟨number ▸ i.isLt, function, polarity, low, high, stock, groups, target, masked⟩
    obtain ⟨f1, f2, f3, f4, f5, f6, f7⟩ := configureLine_fields good s.lines[i]
    obtain ⟨raw, kept⟩ := configureLine_kept b s.lines[i]
    obtain ⟨others, notices⟩ :=
      landLines_spec (withdrawn i s.lines[i]) (s.lines.set i (configureLine b s.lines[i])) s
    refine ⟨configureLine b s.lines[i],
      s.landLines (withdrawn i s.lines[i]) (s.lines.set i (configureLine b s.lines[i])),
      f1, f2, f3, f4, f5, f6, f7, raw, kept, configureLine_run b s.lines[i],
      exec_linePut_lands length good number taken, others,
      fun inactive => landLines_inactive inactive (kept.trans inactive), fun active g => ?_, ?_⟩
    · have touched : withdrawn i s.lines[i] = oneLine i := if_pos active
      rw [touched, State.landLines_groups, Fin.getElem_fin, getElem_tab]
      exact reline_oneLine s.lines i (kept.trans active) g s.groups[g]
    · rw [notices, availChanges_eq]

/-! ## LINE GET (R74) -/

theorem exec_lineGet {s : State} (taken : s.Takes) (b : List Byte) :
    exec (.lineGet b) s = .next ((lineGet b s.countTaken).settle 0x43) := congrArg Host.Outcome.next (sendCommand_takes taken)

theorem lineGet_badLength {b : List Byte} (length : b.length ≠ 1) (s : State) : lineGet b s = .refuse s .badLength :=
  if_pos length

theorem lineGet_badField {b : List Byte} (length : b.length = 1) (number : 8 ≤ u8 b 0) (s : State) :
    lineGet b s = .refuse s .badField := by
  rw [lineGet, if_neg (not_not.mpr length), if_pos number]

/-- R74: the configuration of a line, byte by byte. -/
theorem lineBody_eq (n : Nat) (l : Line) :
    lineBody n l =
      [BitVec.ofNat 8 n, BitVec.ofNat 8 l.function.code, if l.activeHigh then 1 else 0, BitVec.ofNat 8 l.debounce,
        BitVec.ofNat 8 l.stockClass.val, BitVec.ofNat 8 l.groups.toNat, BitVec.ofNat 8 l.target.code,
        if l.masked then 1 else 0] := by
  simp only [lineBody, put8_eq, putFlag_eq, List.cons_append, List.nil_append]

theorem lineGet_answers {b : List Byte} (length : b.length = 1) {i : Fin 8} (number : u8 b 0 = i.val) (s : State) :
    lineGet b s =
      .done s (lineBody i.val s.lines[i] ++ putFlag s.lines[i].raw ++ putFlag s.lines[i].active ++ put8 s.lines[i].run) := by
  have line : s.lines[Fin.ofNat 8 (u8 b 0)] = s.lines[i] := by simp only [finOfNat_eq number]
  rw [lineGet, if_neg (not_not.mpr length), if_neg (by omega), line, number]

/-! ## One sample (R64, R65) -/

/-- R64: the sample disagrees with the debounced state. -/
theorem Line.disagrees_iff (level : Bool) (l : Line) :
    l.disagrees level = true ↔ decide (level = l.activeHigh) ≠ l.active := bne_iff_ne

/-- R65: the sample completes the run. -/
theorem Line.changes_iff (level : Bool) (l : Line) :
    l.changes level = true ↔ decide (level = l.activeHigh) ≠ l.active ∧ l.debounce ≤ l.run + 1 := by
  rw [Line.changes, Bool.and_eq_true, Line.disagrees_iff, decide_eq_true_iff]

theorem Line.sampled_of_agrees {level : Bool} {l : Line} (agrees : decide (level = l.activeHigh) = l.active) :
    l.sampled level = { l with raw := level, run := 0 } := by
  rw [Line.sampled, if_neg (fun changes => ((l.changes_iff level).mp changes).1 agrees),
    if_neg (fun disagrees => (l.disagrees_iff level).mp disagrees agrees)]

theorem Line.sampled_of_short {level : Bool} {l : Line} (disagrees : decide (level = l.activeHigh) ≠ l.active)
    (short : l.run + 1 < l.debounce) : l.sampled level = { l with raw := level, run := l.run + 1 } := by
  rw [Line.sampled, if_neg (fun changes => Nat.not_le.mpr short ((l.changes_iff level).mp changes).2),
    if_pos ((l.disagrees_iff level).mpr disagrees)]

theorem Line.sampled_of_changes {level : Bool} {l : Line} (changes : l.changes level = true) :
    l.sampled level = { l with raw := level, active := !l.active, run := 0 } := if_pos changes

/-- Settles O28: LINE GET, the three outcomes of a sample, and when a line is in force. -/
theorem lineGetAndSample : Obligations.LineGetAndSample := by
  refine ⟨fun b s taken => ?_, fun level l => ⟨Line.sampled_of_agrees, Line.sampled_of_short, fun disagrees full => ?_⟩,
    Line.inForce_iff⟩
  · rw [exec_lineGet taken]
    refine ⟨fun length => ?_, fun length number => ?_, fun length i number => ?_⟩
    · rw [lineGet_badLength length, settle_refuse]
    · rw [lineGet_badField length number, settle_refuse]
    · rw [lineGet_answers length number, settle_done, lineBody_eq]
      simp only [putFlag_eq, put8_eq, List.cons_append, List.nil_append]
      rfl
  · exact Line.sampled_of_changes ((l.changes_iff level).mpr ⟨disagrees, full⟩)

end Sys2Proof.Machine
end

section
/-! PROOFS. O49: the frame starts named by a debounced change, the coast limit, the silence to PLAIN, an acknowledge wait's
failure and a silence drop (R65, R131, R132, R134, R147). -/

namespace Sys2Proof.Machine

/-! ## When the named thing is due -/

/-- R147: the coast count passes the coast limit. -/
theorem Feed.coastEnds_iff (f : Feed) : f.coastEnds = true ↔ f.state = .coasting ∧ f.coastLimit < f.coast + 1 := by
  simp [Feed.coastEnds]

/-- R131: an OFFER output has been silent for 60 frame starts. -/
theorem Output.becomesPlain_iff (present : Bool) (o : Output) :
    o.becomesPlain present = true ↔ present = true ∧ o.link = .offer ∧ 60 ≤ o.silence + 1 := by
  simp only [Output.becomesPlain, Bool.and_eq_true, beq_iff_eq, decide_eq_true_iff]
  tauto

/-- R132: a MATCH output has waited for 30 frame starts. -/
theorem Output.ackWaitFails_iff (present : Bool) (o : Output) :
    o.ackWaitFails present = true ↔ present = true ∧ o.link = .matching ∧ 30 ≤ o.ackWait + 1 := by
  simp only [Output.ackWaitFails, Bool.and_eq_true, beq_iff_eq, decide_eq_true_iff]
  tauto

/-- R134: an UP or MISFIT output has been silent for 10 frame starts. -/
theorem Output.silenceDrops_iff (present : Bool) (o : Output) :
    o.silenceDrops present = true ↔ present = true ∧ (o.link = .up ∨ o.link = .misfit) ∧ 10 ≤ o.silence + 1 := by
  simp only [Output.silenceDrops, Output.linked, Bool.and_eq_true, Bool.or_eq_true, beq_iff_eq, decide_eq_true_iff]
  tauto

/-! ## What comes about (R65, R131 to R134, R147) -/

/-- R147, R143: past the coast limit the feed is DARK, or TRAINING at once while the signal is present. -/
theorem Feed.atFrame_of_coastEnds {f : Feed} (ends : f.coastEnds = true) :
    f.atFrame.coast = 0 ∧ f.atFrame.state = if f.signal then .training else .dark := by
  rw [Feed.atFrame, if_pos ends]
  exact ⟨rfl, rfl⟩

/-- R172: the packets placed leave the down queue; the link record stays. -/
theorem Output.afterPlacing_frame (o : Output) : o.afterPlacing = { o with down := o.afterPlacing.down } := by
  unfold Output.afterPlacing
  split <;> rfl

/-- R131: the silent OFFER output is PLAIN. -/
theorem Output.atFrame_of_becomesPlain {present : Bool} {o : Output} (due : o.becomesPlain present = true) :
    (o.atFrame present).link = .plain := by
  obtain ⟨there, offer, silent⟩ := (o.becomesPlain_iff present).mp due
  simp [Output.atFrame, Output.linkFrame, offer, Output.offerFrame, there, silent]

/-- R133: a failure is counted, and the eighth one is final. -/
theorem Output.fail_failures (o : Output) : o.fail.failures = o.failures + 1 := by
  unfold Output.fail
  split <;> rfl

theorem Output.fail_link (o : Output) : o.fail.link = if 8 ≤ o.failures + 1 then .failed else .offer := by
  unfold Output.fail
  split <;> rfl

/-- R132: the MATCH output that waited in vain fails. -/
theorem Output.atFrame_of_ackWaitFails {present : Bool} {o : Output} (due : o.ackWaitFails present = true) :
    (o.atFrame present).failures = o.failures + 1 ∧
      (o.atFrame present).link = if 8 ≤ o.failures + 1 then .failed else .offer := by
  obtain ⟨there, matching, waited⟩ := (o.ackWaitFails_iff present).mp due
  have failed : o.linkFrame present = ({ o with ackWait := o.ackWait + 1 } : Output).fail := by
    simp [Output.linkFrame, matching, Output.matchFrame, there, waited]
  rw [Output.atFrame, failed]
  exact ⟨Output.fail_failures _, Output.fail_link _⟩

/-- R134: the silent UP or MISFIT output drops to OFFER. -/
theorem Output.atFrame_of_silenceDrops {present : Bool} {o : Output} (due : o.silenceDrops present = true) :
    (o.atFrame present).link = .offer ∧ (o.atFrame present).dropLatch = true := by
  obtain ⟨there, linked, silent⟩ := (o.silenceDrops_iff present).mp due
  have dropped : o.linkFrame present = { o.toOffer with dropLatch := true } := by
    rcases linked with up | misfit
    · simp [Output.linkFrame, up, Output.upFrame, there, silent]
    · simp [Output.linkFrame, misfit, Output.upFrame, there, silent]
  rw [Output.atFrame, dropped]
  exact ⟨rfl, rfl⟩

/-! ## The frame start that is named -/

theorem takeFrame_feed (pins : FramePins) (s : State) : (s.takeFrame pins).feed = s.feed.atFrame := by
  rw [takeFrame_frame]

/-- R172: placing the relay packets of the frame leaves the link record that the frame start gave. -/
theorem takeFrame_link (pins : FramePins) (s : State) (k : Fin 4) :
    ((s.takeFrame pins).outputs[k]).link = (s.outputs[k].atFrame (pins.presence.getLsbD k.val)).link ∧
      ((s.takeFrame pins).outputs[k]).failures = (s.outputs[k].atFrame (pins.presence.getLsbD k.val)).failures ∧
      ((s.takeFrame pins).outputs[k]).dropLatch = (s.outputs[k].atFrame (pins.presence.getLsbD k.val)).dropLatch := by
  rw [takeFrame_outputs, Output.afterPlacing_frame]
  exact ⟨rfl, rfl, rfl⟩

/-- The named event is the whole frame start when it is due, and nothing when it is not (log 4). -/
theorem next_frameIf {due : Bool} {named : Prop} (meaning : due = true ↔ named) (pins : FramePins) {s : State}
    (released : s.resetPin = false) :
    (named → Host.Outcome.next (φ := Fault) (ρ := Refusal) (s.frameIf due pins) = .next (s.takeFrame pins)) ∧
      (¬ named → Host.Outcome.next (φ := Fault) (ρ := Refusal) (s.frameIf due pins) = .next s) := by
  rw [frameIf_due released]
  exact ⟨fun holds => by rw [if_pos (meaning.mpr holds)], fun fails => by rw [if_neg (fun t => fails (meaning.mp t))]⟩

/-- Settles O49: each named event is the frame start exactly when it is due, and the frame start brings it about. -/
theorem thresholdFrameStarts : Obligations.ThresholdFrameStarts := by
  intro pins s released
  refine ⟨s.takeFrame pins, exec_frameStart released, fun i due meaning => ?line, fun due meaning => ?coast,
    fun k present meaning => ?output⟩
  case line =>
    have named := (Line.changes_iff (pins.lines.getLsbD i.val) s.lines[i]).trans meaning.symm
    obtain ⟨whole, idle⟩ := next_frameIf named pins released
    refine ⟨fun holds => ⟨whole holds, ?_⟩, idle⟩
    rw [takeFrame_lines, Line.sampled_of_changes (named.mpr holds)]
    exact ⟨rfl, rfl⟩
  case coast =>
    have named := s.feed.coastEnds_iff.trans meaning.symm
    obtain ⟨whole, idle⟩ := next_frameIf named pins released
    refine ⟨fun holds => ⟨whole holds, ?_⟩, idle⟩
    rw [takeFrame_feed]
    exact Feed.atFrame_of_coastEnds (named.mpr holds)
  case output =>
    obtain ⟨link, failures, dropLatch⟩ := takeFrame_link pins s k
    have plain := (s.outputs[k].becomesPlain_iff (pins.presence.getLsbD k.val)).trans (and_congr_left' meaning.symm)
    have fails := (s.outputs[k].ackWaitFails_iff (pins.presence.getLsbD k.val)).trans (and_congr_left' meaning.symm)
    have drops := (s.outputs[k].silenceDrops_iff (pins.presence.getLsbD k.val)).trans (and_congr_left' meaning.symm)
    obtain ⟨plainWhole, plainIdle⟩ := next_frameIf plain pins released
    obtain ⟨failWhole, failIdle⟩ := next_frameIf fails pins released
    obtain ⟨dropWhole, dropIdle⟩ := next_frameIf drops pins released
    refine ⟨fun holds => ⟨plainWhole holds, ?_⟩, plainIdle, fun holds => ⟨failWhole holds, ?_⟩, failIdle,
      fun holds => ⟨dropWhole holds, ?_⟩, dropIdle⟩
    · rw [link]
      exact Output.atFrame_of_becomesPlain (plain.mpr holds)
    · rw [link, failures]
      exact Output.atFrame_of_ackWaitFails (fails.mpr holds)
    · rw [link, dropLatch]
      exact Output.atFrame_of_silenceDrops (drops.mpr holds)

end Sys2Proof.Machine
end

section
/-! PROOFS. O30: what a flip request does to a group, and the rules of the requests, the hold sources and the three stages of a
group's frame start work that the other statements about groups use (R84 to R104). -/

namespace Sys2Proof.Machine

/-! ## Flip requests (R84 to R87) -/

/-- R87: a holding group keeps the request as its pending target. -/
theorem request_holding {g : Group} (holding : g.phase ≠ .free) (b : Bank) :
    g.request b = ({ g with pendingTarget := some b }, .deferred) := by
  simp [Group.request, Group.holding, holding]

theorem request_idle {g : Group} (free : g.phase = .free) (idle : g.flip = .idle) (b : Bank) :
    g.request b = g.requestIdle b := by
  simp [Group.request, Group.holding, free, idle]

theorem request_waiting {g : Group} (free : g.phase = .free) (waits : g.flip = .waiting ∨ g.flip = .settling) (b : Bank) :
    g.request b = g.requestWaiting b := by
  rcases waits with waiting | settling
  · simp [Group.request, Group.holding, free, waiting]
  · simp [Group.request, Group.holding, free, settling]

theorem request_fading {g : Group} (free : g.phase = .free) (fading : g.flip = .fading) (b : Bank) :
    g.request b = g.requestFading b := by
  simp [Group.request, Group.holding, free, fading]

/-- The other bank than the one shown is the flip target of a legal group. -/
theorem target_ne_some {g : Group} {b : Bank} (shown : b = g.shown) (legal : g.target ≠ some g.shown) :
    g.target ≠ some b := shown ▸ legal

/-- Settles O30: the four kinds of state that a request finds, and the targets in each. -/
theorem flipRequestOutcomes : Obligations.FlipRequestOutcomes := by
  intro b g
  refine ⟨fun free idle shown => ?_, fun free idle other => ?_, fun free waits same => ?_,
    fun free waits shown legal => ?_, fun free fading same => ?_, fun free fading shown legal => ?_, fun holding => ?_⟩
  · rw [request_idle free idle, Group.requestIdle, if_pos shown]
  · rw [request_idle free idle, Group.requestIdle, if_neg other]
  · rw [request_waiting free waits, Group.requestWaiting, if_pos same]
  · rw [request_waiting free waits, Group.requestWaiting, if_neg (target_ne_some shown legal)]
  · rw [request_fading free fading, Group.requestFading, if_pos same]
  · rw [request_fading free fading, Group.requestFading, if_neg (target_ne_some shown legal)]
  · refine request_holding (fun free => ?_) b
    simp [free] at holding

/-! ## Hold sources (R97, R98) -/

/-- R97: a hold source is the command-hold flag, or a line of the line-hold set that is not disregarded. -/
theorem hasSource_iff (g : Group) :
    g.hasSource = true ↔
      g.commandHold = true ∨ ∃ i : Fin 8, g.lineHold.getLsbD i.val = true ∧ g.disregarded.getLsbD i.val = false := by
  have lines : g.lineHold &&& ~~~g.disregarded ≠ 0 ↔
      ∃ i : Fin 8, g.lineHold.getLsbD i.val = true ∧ g.disregarded.getLsbD i.val = false := by
    rw [and_ne_zero_iff]
    constructor
    · rintro ⟨i, bound, held, heeded⟩
      exact ⟨⟨i, bound⟩, held, by simpa [bound] using heeded⟩
    · rintro ⟨i, held, heeded⟩
      exact ⟨i.val, i.isLt, held, by rw [BitVec.getLsbD_not, heeded, decide_eq_true i.isLt]; rfl⟩
  rw [Group.hasSource, Bool.or_eq_true, bne_iff_ne, lines]

theorem sourcesChanged_same {g n : Group} (same : g.hasSource = n.hasSource) : g.sourcesChanged n = n := by
  simp [Group.sourcesChanged, same]

theorem sourcesChanged_gains {g n : Group} (before : g.hasSource = false) (after : n.hasSource = true) :
    g.sourcesChanged n = n.gainSource := by
  simp [Group.sourcesChanged, before, after]

theorem sourcesChanged_loses {g n : Group} (before : g.hasSource = true) (after : n.hasSource = false) :
    g.sourcesChanged n = n.loseSource := by
  simp [Group.sourcesChanged, before, after]

/-- R99: a hold that begins takes a waiting flip into the pending target. -/
theorem gainSource_waiting {n : Group} (free : n.phase = .free) (waits : n.flip = .waiting ∨ n.flip = .settling) :
    n.gainSource =
      { n with phase := .captureDue, pendingTarget := n.target, flip := .idle, target := none, age := 0, settle := 0 } := by
  simp only [Group.gainSource, free, Group.beginHold, if_pos waits]

theorem gainSource_other {n : Group} (free : n.phase = .free) (other : n.flip = .idle ∨ n.flip = .fading) :
    n.gainSource = { n with phase := .captureDue } := by
  have unstopped : ¬ (n.flip = .waiting ∨ n.flip = .settling) := by
    rcases other with flip | flip <;> simp [flip]
  simp only [Group.gainSource, free, Group.beginHold, if_neg unstopped]

theorem gainSource_captured {n : Group} (due : n.phase = .releaseDue) (taken : n.capture.isSome = true) :
    n.gainSource = { n with phase := .captured } := by
  simp only [Group.gainSource, due, if_pos taken]

theorem gainSource_uncaptured {n : Group} (due : n.phase = .releaseDue) (untaken : n.capture = none) :
    n.gainSource = { n with phase := .captureDue } := by
  simp [Group.gainSource, due, untaken]

theorem loseSource_due {n : Group} (due : n.phase = .captureDue) :
    n.loseSource = { n with phase := .releaseDue, capture := none } := by
  simp only [Group.loseSource, due]

theorem loseSource_captured {n : Group} (captured : n.phase = .captured) : n.loseSource = { n with phase := .releaseDue } := by
  simp only [Group.loseSource, captured]

/-! ## The first stage (R89 to R94) -/

/-- R90: the timeout applies when it is not 0 and the age reaches it. -/
theorem timesOut_iff (g : Group) :
    g.timesOut = true ↔ g.timeoutFrames ≠ 0 ∧ g.timeoutFrames ≤ min 65535 (g.age + 1) := by
  rw [Group.timesOut, decide_eq_true_iff, countFrame_eq]

theorem flipStage_idle {g : Group} (idle : g.flip = .idle) (ready : Bool) : g.flipStage ready = (g, .goesOn) := by
  simp only [Group.flipStage, idle]

theorem flipStage_fading {g : Group} (fading : g.flip = .fading) (ready : Bool) : g.flipStage ready = g.fadeStage := by
  simp only [Group.flipStage, fading]

/-- R90: the timeout comes before the readiness. -/
theorem flipStage_overdue {g : Group} (waits : g.flip = .waiting ∨ g.flip = .settling) (overdue : g.timesOut = true)
    (ready : Bool) : g.flipStage ready = g.timeout := by
  rcases waits with flip | flip <;> simp only [Group.flipStage, flip, if_pos overdue]

theorem flipStage_waiting {g : Group} (waiting : g.flip = .waiting) (early : g.timesOut = false) (ready : Bool) :
    g.flipStage ready = g.waitStage ready := by
  simp [Group.flipStage, waiting, early]

theorem flipStage_settling {g : Group} (settling : g.flip = .settling) (early : g.timesOut = false) (ready : Bool) :
    g.flipStage ready = g.settleStage ready := by
  simp [Group.flipStage, settling, early]

/-- R93, R94: the flip target of the group becomes its shown bank. -/
theorem complete_eq {g : Group} {b : Bank} (target : g.target = some b) :
    g.complete =
      { g with shown := b, flip := .idle, target := none, age := 0, settle := 0, fadeStep := 0, fadeLength := 0 } := by
  simp only [Group.complete, target, Option.getD_some]

theorem execute_at_once {g : Group} (length : g.fadeFrames = 0) : g.execute = g.complete := if_pos length

theorem execute_fades {g : Group} (length : g.fadeFrames ≠ 0) :
    g.execute = { g with flip := .fading, age := 0, settle := 0, fadeStep := 1, fadeLength := g.fadeFrames } := if_neg length

/-! ## The rules of the flip machine (R90 to R94, R96) -/

theorem timeout_abandons {g : Group} (policy : g.force = false) :
    g.timeout = ({ g with flip := .idle, target := none, age := 0, settle := 0 }, .abandoned) := by
  simp only [Group.timeout, policy, Bool.false_eq_true, if_false, Group.abandon]

theorem timeout_forces {g : Group} (policy : g.force = true) : g.timeout = (g.execute, .forced) := if_pos policy

/-- R91, R92: without readiness the group waits, and settles no more. -/
theorem flipStage_unready {g : Group} (waits : g.flip = .waiting ∨ g.flip = .settling) (early : g.timesOut = false) :
    g.flipStage false =
      ({ g with
         age := min 65535 (g.age + 1)
         flip := .waiting
         settle := if g.flip = .settling then 0 else g.settle }, .goesOn) := by
  rcases waits with waiting | settling
  · rw [flipStage_waiting waiting early, ← countFrame_eq, ← waiting]
    simp [Group.waitStage, waiting]
  · rw [flipStage_settling settling early, ← countFrame_eq]
    simp [Group.settleStage, settling]

/-- R91, R92: the group is ready and has settled. -/
def Group.Settled (g : Group) : Prop := (g.flip = .waiting ∧ g.settleFrames = 0) ∨ (g.flip = .settling ∧ g.settle ≤ 1)

theorem flipStage_settled {g : Group} (settled : g.Settled) (early : g.timesOut = false) :
    g.flipStage true = (g.execute, .executes) := by
  rcases settled with ⟨waiting, atOnce⟩ | ⟨settling, last⟩
  · rw [flipStage_waiting waiting early]
    simp [Group.waitStage, atOnce]
  · rw [flipStage_settling settling early]
    simp [Group.settleStage, last]

theorem flipStage_begins_settling {g : Group} (waiting : g.flip = .waiting) (early : g.timesOut = false)
    (settles : g.settleFrames ≠ 0) :
    g.flipStage true =
      ({ g with age := min 65535 (g.age + 1), flip := .settling, settle := g.settleFrames }, .goesOn) := by
  rw [flipStage_waiting waiting early, ← countFrame_eq]
  simp [Group.waitStage, settles]

theorem flipStage_goes_on_settling {g : Group} (settling : g.flip = .settling) (early : g.timesOut = false)
    (more : 1 < g.settle) :
    g.flipStage true = ({ g with age := min 65535 (g.age + 1), settle := g.settle - 1 }, .goesOn) := by
  rw [flipStage_settling settling early, ← countFrame_eq]
  simp [Group.settleStage, Nat.not_le.mpr more]

theorem fadeStage_steps {g : Group} (more : g.fadeStep < g.fadeLength) :
    g.fadeStage = ({ g with fadeStep := g.fadeStep + 1 }, .goesOn) := if_neg (by omega)

theorem fadeStage_completes {g : Group} (last : g.fadeLength ≤ g.fadeStep) : g.fadeStage = (g.complete, .fadeCompletes) :=
  if_pos (by omega)

/-- R96: the events that raise FLIP_DONE. -/
theorem flipDone_iff (after : Group) (e : FlipEvent) :
    flipDone after e = true ↔ e = .fadeCompletes ∨ ((e = .executes ∨ e = .forced) ∧ after.flip = .idle) := by
  cases e <;> simp [flipDone]

/-- Settles O33: the timeout, then readiness and settling, then execution and the steps of a fade, each by its own rule. -/
theorem flipStageRules : Obligations.FlipStageRules := by
  intro ready g b
  refine ⟨fun idle => flipStage_idle idle ready, fun target waits => ⟨fun set reached => ?overdue, fun inTime => ?early⟩,
    fun target fading => ?fading, fun e => flipDone_iff _ e⟩
  case overdue =>
    rw [flipStage_overdue waits ((timesOut_iff g).mpr ⟨set, reached⟩)]
    refine ⟨timeout_abandons, fun policy length => ?_, fun policy length => ?_⟩
    · rw [timeout_forces policy, execute_at_once length, complete_eq target]
    · rw [timeout_forces policy, execute_fades length]
  case early =>
    have early : g.timesOut = false := by
      rw [Bool.eq_false_iff, ne_eq, timesOut_iff]
      omega
    refine ⟨?_, ?_, ?_, ?_⟩
    · rintro rfl
      exact flipStage_unready waits early
    · rintro rfl waiting settles
      exact flipStage_begins_settling waiting early settles
    · rintro rfl settling more
      exact flipStage_goes_on_settling settling early more
    · rintro rfl settled
      rw [flipStage_settled settled early]
      refine ⟨fun length => ?_, fun length => ?_⟩
      · rw [execute_at_once length, complete_eq target]
      · rw [execute_fades length]
  case fading =>
    rw [flipStage_fading fading]
    refine ⟨fadeStage_steps, fun last => ?_⟩
    rw [fadeStage_completes last, complete_eq target]

/-! ## The second and the third stage (R100 to R104) -/

theorem holdStage_free {g : Group} (free : g.phase = .free) (live : FrameView) : g.holdStage live = g := by
  simp only [Group.holdStage, free]

theorem holdStage_captures {g : Group} (due : g.phase = .captureDue) (idle : g.flip = .idle) (live : FrameView) :
    g.holdStage live = { g with phase := .captured, holdAge := 0, capture := some live } := by
  simp only [Group.holdStage, due, if_pos idle]

theorem holdStage_captureDue {g : Group} (due : g.phase = .captureDue) (fading : g.flip ≠ .idle) (live : FrameView) :
    g.holdStage live = g := by
  simp only [Group.holdStage, due, if_neg fading]

theorem holdStage_limit {g : Group} (limit : g.limitApplies = true) (live : FrameView) :
    g.holdStage live =
      { g with commandHold := false, disregarded := g.lineHold, phase := .free, holdAge := 0, capture := none } := by
  have captured := ((limitApplies_iff g).mp limit).1
  simp only [Group.holdStage, captured, if_pos limit, Group.endByLimit, Group.goLive]

theorem holdStage_ages {g : Group} (captured : g.phase = .captured) (early : g.limitApplies = false) (live : FrameView) :
    g.holdStage live = { g with holdAge := min 65535 (g.holdAge + 1) } := by
  simp only [Group.holdStage, captured, early, Bool.false_eq_true, if_false, countFrame_eq]

theorem holdStage_releases {g : Group} (due : g.phase = .releaseDue) (live : FrameView) :
    g.holdStage live = { g with phase := .free, holdAge := 0, capture := none } := by
  simp only [Group.holdStage, due, Group.goLive]

/-- R103: a FREE and IDLE group takes its pending target as a fresh request. -/
theorem takePending_some {g : Group} {b : Bank} (free : g.phase = .free) (idle : g.flip = .idle)
    (pending : g.pendingTarget = some b) : g.takePending = (Group.request b { g with pendingTarget := none }).1 := by
  simp only [Group.takePending, if_pos (And.intro free idle), pending]

theorem takePending_none {g : Group} (nothing : g.phase ≠ .free ∨ g.flip ≠ .idle ∨ g.pendingTarget = none) :
    g.takePending = g := by
  unfold Group.takePending
  split
  · rename_i ready
    have none : g.pendingTarget = none := by tauto
    rw [none]
  · rfl

/-- Settles O34: the second stage in each hold phase, and the taking of the pending target. -/
theorem holdStageRules : Obligations.HoldStageRules := by
  intro live g
  refine ⟨fun free => holdStage_free free live, fun due idle => holdStage_captures due idle live,
    fun due fading => holdStage_captureDue due fading live, fun captured early => holdStage_ages captured ?_ live,
    fun captured set reached => holdStage_limit ((limitApplies_iff g).mpr ⟨captured, set, reached⟩) live,
    fun due => holdStage_releases due live, fun b => takePending_some, takePending_none⟩
  rw [Bool.eq_false_iff, ne_eq, limitApplies_iff]
  omega

end Sys2Proof.Machine
end

section
/-! PROOFS. O29, O31, O32: GROUP PUT, GROUP GET, FLIP, HOLD and RELEASE (R82, R83, R88, R97 to R99, R105). -/

namespace Sys2Proof.Machine

/-! ## GROUP PUT (R82) -/

theorem exec_groupPut {s : State} (taken : s.Takes) (b : List Byte) :
    exec (.groupPut b) s = .next ((groupPut b s.countTaken).settle 0x50) :=
  congrArg Host.Outcome.next (sendCommand_takes taken)

/-- R82: the field checks. -/
theorem groupFieldsGood_iff (b : List Byte) : groupFieldsGood b = true ↔ u8 b 0 < 4 ∧ u8 b 4 < 2 ∧ u8 b 5 ≤ 30 :=
  decide_eq_true_iff

theorem groupPut_badLength {b : List Byte} (length : b.length ≠ 8) (s : State) : groupPut b s = .refuse s .badLength :=
  if_pos length

theorem groupPut_badField {b : List Byte} (length : b.length = 8) (bad : groupFieldsGood b = false) (s : State) :
    groupPut b s = .refuse s .badField := by
  simp [groupPut, length, bad]

theorem groupPut_wrongState {b : List Byte} (length : b.length = 8) (good : groupFieldsGood b = true) {g : Fin 4}
    (number : u8 b 0 = g.val) {s : State} (busy : s.groups[g].flip ≠ .idle) : groupPut b s = .refuse s .wrongState := by
  obtain rfl : Fin.ofNat 4 (u8 b 0) = g := finOfNat_eq number
  rw [groupPut, if_neg (not_not.mpr length), good]
  exact if_pos busy

theorem groupPut_writes {b : List Byte} (length : b.length = 8) (good : groupFieldsGood b = true) {g : Fin 4}
    (number : u8 b 0 = g.val) {s : State} (idle : s.groups[g].flip = .idle) :
    groupPut b s =
      .done { s with groups := s.groups.set g (parameterise b s.groups[g]) } [BitVec.ofNat 8 g.val] := by
  obtain rfl : Fin.ofNat 4 (u8 b 0) = g := finOfNat_eq number
  rw [groupPut, if_neg (not_not.mpr length), good]
  exact if_neg (not_not.mpr idle)

/-! ## GROUP GET (R81, R83) -/

theorem exec_groupGet {s : State} (taken : s.Takes) (b : List Byte) :
    exec (.groupGet b) s = .next ((groupGet b s.countTaken).settle 0x51) :=
  congrArg Host.Outcome.next (sendCommand_takes taken)

theorem groupGet_badLength {b : List Byte} (length : b.length ≠ 1) (s : State) : groupGet b s = .refuse s .badLength :=
  if_pos length

theorem groupGet_badField {b : List Byte} (length : b.length = 1) (number : 4 ≤ u8 b 0) (s : State) :
    groupGet b s = .refuse s .badField := by
  rw [groupGet, if_neg (not_not.mpr length), if_pos number]

theorem groupGet_answers {b : List Byte} (length : b.length = 1) {g : Fin 4} (number : u8 b 0 = g.val) (s : State) :
    groupGet b s = .done s (groupBody s.outputs g s.groups[g]) := by
  obtain rfl : Fin.ofNat 4 (u8 b 0) = g := finOfNat_eq number
  rw [groupGet, if_neg (not_not.mpr length), if_neg (by omega)]

/-- R81: the outputs of a mask byte are those that the test holds for. -/
theorem outputMask_testBit (outputs : Vector Output 4) (test : Output → Bool) (k : Fin 4) :
    (outputMask outputs test).testBit k.val = test outputs[k] := by
  have bits : ∀ (f : Fin 4 → Bool) (k : Fin 4),
      ((f 0).toNat + 2 * (f 1).toNat + 4 * (f 2).toNat + 8 * (f 3).toNat).testBit k.val = f k := by decide
  exact bits (fun j => test outputs[j]) k

theorem outputMask_lt (outputs : Vector Output 4) (test : Output → Bool) : outputMask outputs test < 16 := by
  have flag := fun o => Bool.toNat_lt (test o)
  have := flag outputs[0]
  have := flag outputs[1]
  have := flag outputs[2]
  have := flag outputs[3]
  unfold outputMask
  omega

/-- R81: an enabled output is a member of the group its record names. -/
theorem Output.memberOf_iff (o : Output) (g : Fin 4) : o.memberOf g = true ↔ o.enabled = true ∧ o.group = g := by
  simp [Output.memberOf]

/-- R138: an output is ready while its link is UP or PLAIN. -/
theorem Output.ready_iff (o : Output) : o.ready = true ↔ o.link = .up ∨ o.link = .plain := by
  simp [Output.ready]

theorem bankOrNone_eq (b : Option Bank) : bankOrNone b = (b.map Bank.code).getD 255 := by
  cases b <;> rfl

/-- R83: the body of GROUP GET, byte by byte. -/
theorem groupBody_eq (outputs : Vector Output 4) (i : Fin 4) (g : Group) :
    groupBody outputs i g =
      [BitVec.ofNat 8 i.val, BitVec.ofNat 8 g.shown.code, BitVec.ofNat 8 g.flip.code,
          BitVec.ofNat 8 ((g.target.map Bank.code).getD 255), BitVec.ofNat 8 ((g.pendingTarget.map Bank.code).getD 255)] ++
        put16 g.age ++
        [BitVec.ofNat 8 g.settle, BitVec.ofNat 8 g.fadeStep, BitVec.ofNat 8 g.fadeLength, BitVec.ofNat 8 g.settleFrames] ++
        put16 g.timeoutFrames ++ [(if g.force then 1 else 0), BitVec.ofNat 8 g.fadeFrames] ++ put16 g.holdLimit ++
        [(if g.commandHold then 1 else 0), g.lineHold, g.disregarded, BitVec.ofNat 8 g.phase.code] ++ put16 g.holdAge ++
        [BitVec.ofNat 8 (outputMask outputs (fun o => o.memberOf i)),
          BitVec.ofNat 8 (outputMask outputs (fun o => o.memberOf i && o.ready))] := by
  unfold groupBody
  simp only [put8_eq, putFlag_eq, bankOrNone_eq, BitVec.ofNat_toNat, BitVec.setWidth_eq, List.append_assoc, List.cons_append,
    List.nil_append]

/-- Settles O29: the codes, the refusals of GROUP PUT and the five parameters that it writes, and the 25 bytes of GROUP GET. -/
theorem groupPutAndGet : Obligations.GroupPutAndGet := by
  refine ⟨⟨rfl, rfl, rfl, rfl, rfl, rfl, rfl, rfl, rfl, rfl⟩, ?_⟩
  intro b s taken
  rw [exec_groupPut taken, exec_groupGet taken]
  refine ⟨fun length => ?_, fun length out => ?_, fun length policy fade g number => ⟨fun busy => ?_, fun idle => ?_⟩,
    fun length => ?_, fun length number => ?_, fun length g number => ?_⟩
  · rw [groupPut_badLength length, settle_refuse]
  · have bad : groupFieldsGood b = false := by
      rw [Bool.eq_false_iff, ne_eq, groupFieldsGood_iff]
      omega
    rw [groupPut_badField length bad, settle_refuse]
  · have good := (groupFieldsGood_iff b).mpr ⟨number ▸ g.isLt, policy, fade⟩
    rw [groupPut_wrongState (s := s.countTaken) length good number busy, settle_refuse]
  · have good := (groupFieldsGood_iff b).mpr ⟨number ▸ g.isLt, policy, fade⟩
    rw [groupPut_writes (s := s.countTaken) length good number idle]
    rfl
  · rw [groupGet_badLength length, settle_refuse]
  · rw [groupGet_badField length number, settle_refuse]
  · refine ⟨outputMask s.outputs (fun o => o.memberOf g), outputMask s.outputs (fun o => o.memberOf g && o.ready),
      outputMask_lt _ _, outputMask_lt _ _, fun k => ⟨?_, ?_⟩, ?_⟩
    · rw [outputMask_testBit, Output.memberOf_iff]
    · rw [outputMask_testBit, Bool.and_eq_true, Output.memberOf_iff, Output.ready_iff, and_assoc]
    · rw [groupGet_answers length number, settle_done, groupBody_eq]
      rfl

/-! ## FLIP (R88) -/

theorem exec_flip {s : State} (taken : s.Takes) (b : List Byte) :
    exec (.flip b) s = .next ((flipCommand b s.countTaken).settle 0x52) :=
  congrArg Host.Outcome.next (sendCommand_takes taken)

/-- R88, R105: a set field names at least one group and none above 3. -/
theorem setOfFourGood_iff (n : Nat) : setOfFourGood n = true ↔ 1 ≤ n ∧ n < 16 := decide_eq_true_iff

theorem setOfFourGood_false {n : Nat} (out : n = 0 ∨ 16 ≤ n) : setOfFourGood n = false := by
  rw [Bool.eq_false_iff, ne_eq, setOfFourGood_iff]
  omega

/-- The groups of a set field. -/
theorem fourSet_getLsbD (n : Nat) (g : Fin 4) : (BitVec.ofNat 4 n).getLsbD g.val = n.testBit g.val := by
  rw [BitVec.getLsbD_ofNat, decide_eq_true g.isLt, Bool.true_and]

/-- Four reply codes, in rising group number. -/
theorem flatMap_finRange_four (code : Fin 4 → Nat) :
    (List.finRange 4).flatMap (fun g => put8 (code g)) =
      [BitVec.ofNat 8 (code 0), BitVec.ofNat 8 (code 1), BitVec.ofNat 8 (code 2), BitVec.ofNat 8 (code 3)] := rfl

theorem flipCommand_badLength {b : List Byte} (length : b.length ≠ 2) (s : State) : flipCommand b s = .refuse s .badLength :=
  if_pos length

theorem flipCommand_badField {b : List Byte} (length : b.length = 2) (out : u8 b 0 = 0 ∨ 16 ≤ u8 b 0 ∨ 2 ≤ u8 b 1)
    (s : State) : flipCommand b s = .refuse s .badField := by
  have bad : (!setOfFourGood (u8 b 0)) = true ∨ 2 ≤ u8 b 1 := by
    rcases out with empty | high | bank
    · exact .inl (by rw [setOfFourGood_false (.inl empty)]; rfl)
    · exact .inl (by rw [setOfFourGood_false (.inr high)]; rfl)
    · exact .inr bank
  rw [flipCommand, if_neg (not_not.mpr length), if_pos bad]

theorem flipCommand_sends {b : List Byte} (length : b.length = 2) (low : 1 ≤ u8 b 0) (four : u8 b 0 < 16) {bank : Bank}
    (named : u8 b 1 = bank.code) (s : State) :
    flipCommand b s =
      .done { s with groups := sendFlip (BitVec.ofNat 4 (u8 b 0)) bank s.groups }
        ((List.finRange 4).flatMap (fun g => put8 (flipCodes (BitVec.ofNat 4 (u8 b 0)) bank s.groups g))) := by
  have good := (setOfFourGood_iff (u8 b 0)).mpr ⟨low, four⟩
  have banks : bank.code < 2 := by cases bank <;> decide
  simp [flipCommand, length, good, named, banks, bankOf_code]

/-- Settles O31: the refusals of FLIP, one request to each named group, and the four outcomes. -/
theorem flipSendsRequests : Obligations.FlipSendsRequests := by
  refine ⟨⟨rfl, rfl, rfl, rfl, rfl, rfl, rfl⟩, ?_⟩
  intro b s taken
  rw [exec_flip taken]
  refine ⟨fun length => ?_, fun length out => ?_, fun length low four bank named => ?_⟩
  · rw [flipCommand_badLength length, settle_refuse]
  · rw [flipCommand_badField length out, settle_refuse]
  · refine ⟨sendFlip (BitVec.ofNat 4 (u8 b 0)) bank s.groups, flipCodes (BitVec.ofNat 4 (u8 b 0)) bank s.groups, ?_,
      fun g => ?_⟩
    · rw [flipCommand_sends length low four named, flatMap_finRange_four]
      rfl
    · rw [sendFlip_getElem, flipCodes, fourSet_getLsbD]
      exact ⟨fun out => by simp [out], fun named => by simp [named]⟩

/-! ## HOLD and RELEASE (R105) -/

theorem exec_hold {s : State} (taken : s.Takes) (b : List Byte) :
    exec (.hold b) s = .next ((holdOrRelease true b s.countTaken).settle 0x53) :=
  congrArg Host.Outcome.next (sendCommand_takes taken)

theorem exec_release {s : State} (taken : s.Takes) (b : List Byte) :
    exec (.release b) s = .next ((holdOrRelease false b s.countTaken).settle 0x54) :=
  congrArg Host.Outcome.next (sendCommand_takes taken)

theorem holdOrRelease_badLength (f : Bool) {b : List Byte} (length : b.length ≠ 1) (s : State) :
    holdOrRelease f b s = .refuse s .badLength := if_pos length

theorem holdOrRelease_badField (f : Bool) {b : List Byte} (length : b.length = 1) (out : u8 b 0 = 0 ∨ 16 ≤ u8 b 0)
    (s : State) : holdOrRelease f b s = .refuse s .badField := by
  simp [holdOrRelease, length, setOfFourGood_false out]

theorem holdOrRelease_sets (f : Bool) {b : List Byte} (length : b.length = 1) (low : 1 ≤ u8 b 0) (four : u8 b 0 < 16)
    (s : State) :
    holdOrRelease f b s =
      .done { s with groups := holdGroups f (BitVec.ofNat 4 (u8 b 0)) s.groups }
        ((List.finRange 4).flatMap
          (fun g => put8 (holdGroups f (BitVec.ofNat 4 (u8 b 0)) s.groups)[g].phase.code)) := by
  have good := (setOfFourGood_iff (u8 b 0)).mpr ⟨low, four⟩
  simp [holdOrRelease, length, good]

/-- R105: the named groups take the command-hold flag, and their hold sources change with it. -/
theorem holdGroups_getElem (f : Bool) (n : Nat) (groups : Vector Group 4) (g : Fin 4) :
    (holdGroups f (BitVec.ofNat 4 n) groups)[g] =
      if n.testBit g.val = true then groups[g].sourcesChanged { groups[g] with commandHold := f } else groups[g] := by
  rw [holdGroups, Fin.getElem_fin, getElem_tab, fourSet_getLsbD]
  rfl

/-- Settles O32: the hold sources, how the hold phase follows them, and HOLD and RELEASE. -/
theorem holdAndRelease : Obligations.HoldAndRelease := by
  refine ⟨hasSource_iff, fun g n => ⟨sourcesChanged_same, fun before after => ?gains, fun before after => ?loses⟩,
    fun b s taken => ?commands⟩
  case gains =>
    rw [sourcesChanged_gains before after]
    exact ⟨gainSource_waiting, gainSource_other, gainSource_captured, gainSource_uncaptured⟩
  case loses =>
    rw [sourcesChanged_loses before after]
    exact ⟨loseSource_due, loseSource_captured⟩
  case commands =>
    rw [exec_hold taken, exec_release taken]
    refine ⟨fun length => ?_, fun length out => ?_, fun length low four => ?_⟩
    · simp only [holdOrRelease_badLength _ length, settle_refuse, and_self]
    · simp only [holdOrRelease_badField _ length out, settle_refuse, and_self]
    · refine ⟨holdGroups true (BitVec.ofNat 4 (u8 b 0)) s.groups, holdGroups false (BitVec.ofNat 4 (u8 b 0)) s.groups,
        fun g => ?_, ?_, ?_⟩
      · rw [holdGroups_getElem, holdGroups_getElem]
        exact ⟨fun out => by simp [out], fun named => by simp [named]⟩
      · rw [holdOrRelease_sets true length low four, flatMap_finRange_four]
        rfl
      · rw [holdOrRelease_sets false length low four, flatMap_finRange_four]
        rfl

end Sys2Proof.Machine
end

section
/-! PROOFS. O58: every operation on a group keeps its record legal (R80, R85, R97, R98, R101, R103). -/

namespace Sys2Proof.Machine

/-! ## Parts of a legal record -/

theorem Group.FlipOk.exists_target {g : Group} (ok : g.FlipOk) (busy : g.flip ≠ .idle) : ∃ b, g.target = some b :=
  Option.ne_none_iff_exists'.mp (mt ok.1.mp busy)

theorem Group.FlipOk.settle_eq_zero {g : Group} (ok : g.FlipOk) (unsettled : g.flip ≠ .settling) : g.settle = 0 := by
  obtain ⟨-, -, -, settle, -⟩ := ok
  exact settle unsettled

theorem Group.FlipOk.settle_le {g : Group} (ok : g.FlipOk) (settling : g.flip = .settling) : g.settle ≤ g.settleFrames := by
  obtain ⟨-, -, -, -, bounds, -⟩ := ok
  exact (bounds settling).2

/-- R104: every disregarded line is in the line-hold set. -/
theorem Group.Ok.heeded {g : Group} (ok : g.Ok) : g.disregarded &&& ~~~g.lineHold = 0 := by
  obtain ⟨-, ⟨heeded, -⟩, -⟩ := ok
  exact heeded

/-- R98: whether a legal group has a hold source shows in its hold phase. -/
theorem Group.Ok.hasSource_iff_phase {g : Group} (ok : g.Ok) :
    g.hasSource = true ↔ g.phase = .captureDue ∨ g.phase = .captured := by
  obtain ⟨-, ⟨-, source, -⟩, -⟩ := ok
  exact source

/-! ## Flip requests (R84 to R87) -/

theorem Group.Ok.requestIdle {g : Group} (ok : g.Ok) (free : g.phase = .free) (idle : g.flip = .idle) (b : Bank) :
    (g.requestIdle b).1.Ok := by
  unfold Group.requestIdle
  split
  · exact ok
  · grind [Group.Ok, Group.FlipOk, Group.HoldOk, Group.RangeOk, Group.hasSource]

theorem Group.Ok.requestWaiting {g : Group} (ok : g.Ok) (waits : g.flip = .waiting ∨ g.flip = .settling) (b : Bank) :
    (g.requestWaiting b).1.Ok := by
  unfold Group.requestWaiting
  split
  · exact ok
  · grind [Group.Ok, Group.FlipOk, Group.HoldOk, Group.RangeOk, Group.hasSource]

/-- R86, R87: a holding or FADING group may have any pending target. -/
theorem Group.Ok.withPending {g : Group} (ok : g.Ok) (kept : g.phase ≠ .free ∨ g.flip = .fading) (pending : Option Bank) :
    ({ g with pendingTarget := pending } : Group).Ok := by
  grind [Group.Ok, Group.FlipOk, Group.HoldOk, Group.RangeOk, Group.hasSource]

theorem Group.Ok.requestFading {g : Group} (ok : g.Ok) (fading : g.flip = .fading) (b : Bank) : (g.requestFading b).1.Ok := by
  unfold Group.requestFading
  split
  · exact ok.withPending (.inr fading) none
  · exact ok.withPending (.inr fading) (some b)

theorem Group.Ok.request {g : Group} (ok : g.Ok) (b : Bank) : (g.request b).1.Ok := by
  by_cases free : g.phase = .free
  · cases flip : g.flip with
    | idle => rw [request_idle free flip]; exact ok.requestIdle free flip b
    | waiting => rw [request_waiting free (.inl flip)]; exact ok.requestWaiting (.inl flip) b
    | settling => rw [request_waiting free (.inr flip)]; exact ok.requestWaiting (.inr flip) b
    | fading => rw [request_fading free flip]; exact ok.requestFading flip b
  · rw [request_holding free]
    exact ok.withPending (.inl free) (some b)

/-- R70: what every flip request keeps, flip requests one after another keep. -/
theorem foldl_request_keeps {P : Group → Prop} (keeps : ∀ b x, P x → P (Group.request b x).1) {ι : Type} (target : ι → Bank)
    (l : List ι) {g : Group} (holds : P g) : P (l.foldl (fun x i => (Group.request (target i) x).1) g) := by
  induction l generalizing g with
  | nil => exact holds
  | cons i l ih => exact ih (keeps (target i) g holds)

/-! ## Hold sources (R97 to R99) -/

/-- The group with other hold sources. -/
def Group.withSources (commandHold : Bool) (lineHold disregarded : LineSet) (g : Group) : Group :=
  { g with commandHold := commandHold, lineHold := lineHold, disregarded := disregarded }

/-- R98: while the group has a source or has none as before, the record stays legal. -/
theorem Group.Ok.withSources {g : Group} (ok : g.Ok) {c : Bool} {l d : LineSet} (heeded : d &&& ~~~l = 0)
    (same : g.hasSource = (g.withSources c l d).hasSource) : (g.withSources c l d).Ok := by
  obtain ⟨flip, ⟨-, source, rest⟩, range⟩ := ok
  exact ⟨flip, ⟨heeded, same ▸ source, rest⟩, range⟩

/-- R98, R99: the first source begins a hold, or takes one back that was to end. -/
theorem Group.Ok.gainSource {g : Group} (ok : g.Ok) {c : Bool} {l d : LineSet} (heeded : d &&& ~~~l = 0)
    (before : g.hasSource = false) (after : (g.withSources c l d).hasSource = true) :
    (g.withSources c l d).gainSource.Ok := by
  have unheld : ¬ (g.phase = .captureDue ∨ g.phase = .captured) := fun held =>
    Bool.false_ne_true (before.symm.trans (ok.hasSource_iff_phase.mpr held))
  cases phase : g.phase with
  | captureDue => exact absurd (.inl phase) unheld
  | captured => exact absurd (.inr phase) unheld
  | free =>
    by_cases waits : g.flip = .waiting ∨ g.flip = .settling
    · rw [gainSource_waiting (n := g.withSources c l d) phase waits]
      grind [Group.Ok, Group.FlipOk, Group.HoldOk, Group.RangeOk, Group.hasSource, Group.withSources]
    · have other : g.flip = .idle ∨ g.flip = .fading := by
        cases flip : g.flip <;> simp [flip] at waits ⊢
      rw [gainSource_other (n := g.withSources c l d) phase other]
      grind [Group.Ok, Group.FlipOk, Group.HoldOk, Group.RangeOk, Group.hasSource, Group.withSources]
  | releaseDue =>
    cases capture : g.capture with
    | some view =>
      rw [gainSource_captured (n := g.withSources c l d) phase (by simp [Group.withSources, capture])]
      grind [Group.Ok, Group.FlipOk, Group.HoldOk, Group.RangeOk, Group.hasSource, Group.withSources]
    | none =>
      rw [gainSource_uncaptured (n := g.withSources c l d) phase capture]
      grind [Group.Ok, Group.FlipOk, Group.HoldOk, Group.RangeOk, Group.hasSource, Group.withSources]

/-- R98: the last source that ends begins the release. -/
theorem Group.Ok.loseSource {g : Group} (ok : g.Ok) {c : Bool} {l d : LineSet} (heeded : d &&& ~~~l = 0)
    (before : g.hasSource = true) (after : (g.withSources c l d).hasSource = false) :
    (g.withSources c l d).loseSource.Ok := by
  rcases ok.hasSource_iff_phase.mp before with due | captured
  · rw [loseSource_due (n := g.withSources c l d) due]
    grind [Group.Ok, Group.FlipOk, Group.HoldOk, Group.RangeOk, Group.hasSource, Group.withSources]
  · rw [loseSource_captured (n := g.withSources c l d) captured]
    grind [Group.Ok, Group.FlipOk, Group.HoldOk, Group.RangeOk, Group.hasSource, Group.withSources]

/-- R98: a change of the hold sources leaves a legal record. -/
theorem Group.Ok.sourcesChanged {g : Group} (ok : g.Ok) {c : Bool} {l d : LineSet} (heeded : d &&& ~~~l = 0) :
    (g.sourcesChanged (g.withSources c l d)).Ok := by
  cases before : g.hasSource <;> cases after : (g.withSources c l d).hasSource
  · rw [sourcesChanged_same (before.trans after.symm)]
    exact ok.withSources heeded (before.trans after.symm)
  · rw [sourcesChanged_gains before after]
    exact ok.gainSource heeded before after
  · rw [sourcesChanged_loses before after]
    exact ok.loseSource heeded before after
  · rw [sourcesChanged_same (before.trans after.symm)]
    exact ok.withSources heeded (before.trans after.symm)

/-- R105: HOLD and RELEASE. -/
theorem Group.Ok.setCommandHold {g : Group} (ok : g.Ok) (f : Bool) : (g.setCommandHold f).Ok :=
  ok.sourcesChanged (c := f) ok.heeded

/-- R72, R97: a line taken out of the line-hold set is no longer disregarded. -/
theorem relineSets_heeded (touched holding : LineSet) {g : Group} (heeded : g.disregarded &&& ~~~g.lineHold = 0) :
    (g.relineSets touched holding).disregarded &&& ~~~(g.relineSets touched holding).lineHold = 0 := by
  refine lineSet_ext _ _ fun i => ?_
  have bit := congrArg (fun w : LineSet => w.getLsbD i.val) heeded
  simp only [Group.relineSets, BitVec.getLsbD_or, BitVec.getLsbD_and, BitVec.getLsbD_not, i.isLt, decide_true,
    Bool.true_and] at bit ⊢
  grind

/-- R67, R72: lines landing. -/
theorem Group.Ok.reline {g : Group} (ok : g.Ok) (touched holding : LineSet) : (g.reline touched holding).Ok :=
  ok.sourcesChanged (c := g.commandHold) (relineSets_heeded touched holding ok.heeded)

/-! ## GROUP PUT (R82) -/

/-- R82: the parameters of an IDLE group can be any that GROUP PUT takes. -/
theorem Group.Ok.parameterise {g : Group} (ok : g.Ok) (idle : g.flip = .idle) {b : List Byte}
    (good : groupFieldsGood b = true) : (parameterise b g).Ok := by
  have fade := ((groupFieldsGood_iff b).mp good).2.2
  have settle := u8_lt b 1
  have timeout := u16_lt b 2
  have limit := u16_lt b 6
  grind [Group.Ok, Group.FlipOk, Group.HoldOk, Group.RangeOk, Group.hasSource, Machine.parameterise]

/-! ## The stages of a frame start (R89 to R103) -/

/-- R103: legal but for the pending target, which an IDLE group may keep up to the third stage. -/
def Group.Staged (g : Group) : Prop :=
  g.FlipOk ∧ ({ g with pendingTarget := none } : Group).HoldOk ∧ g.RangeOk ∧
    (g.flip = .waiting ∨ g.flip = .settling → g.pendingTarget = none)

theorem Group.Ok.staged {g : Group} (ok : g.Ok) : g.Staged := by
  grind [Group.Ok, Group.HoldOk, Group.hasSource, Group.Staged]

theorem Group.Staged.complete {g : Group} (ok : g.Staged) (busy : g.flip ≠ .idle) : g.complete.Staged := by
  obtain ⟨b, target⟩ := ok.1.exists_target busy
  rw [complete_eq target]
  grind [Group.FlipOk, Group.HoldOk, Group.RangeOk, Group.hasSource, Group.Staged]

theorem Group.Staged.execute {g : Group} (ok : g.Staged) (waits : g.flip = .waiting ∨ g.flip = .settling) :
    g.execute.Staged := by
  by_cases atOnce : g.fadeFrames = 0
  · rw [execute_at_once atOnce]
    exact ok.complete (by rcases waits with flip | flip <;> simp [flip])
  · rw [execute_fades atOnce]
    grind [Group.FlipOk, Group.HoldOk, Group.RangeOk, Group.hasSource, Group.Staged]

theorem Group.Staged.timeout {g : Group} (ok : g.Staged) (waits : g.flip = .waiting ∨ g.flip = .settling) :
    g.timeout.1.Staged := by
  cases policy : g.force with
  | false =>
    rw [timeout_abandons policy]
    grind [Group.FlipOk, Group.HoldOk, Group.RangeOk, Group.hasSource, Group.Staged]
  | true =>
    rw [timeout_forces policy]
    exact ok.execute waits

/-- R91, R92: a flip that goes on waiting or settling, its age counted. -/
theorem Group.Staged.wait {g : Group} (ok : g.Staged) (waits : g.flip = .waiting ∨ g.flip = .settling) {flip : FlipState}
    {settle : Nat} (next : (flip = .waiting ∧ settle = 0) ∨ (flip = .settling ∧ 1 ≤ settle ∧ settle ≤ g.settleFrames)) :
    ({ g with age := min 65535 (g.age + 1), flip := flip, settle := settle } : Group).Staged := by
  grind [Group.FlipOk, Group.HoldOk, Group.RangeOk, Group.hasSource, Group.Staged]

/-- R91, R92: without readiness the flip waits. -/
theorem Group.Staged.unready {g : Group} (ok : g.Staged) (waits : g.flip = .waiting ∨ g.flip = .settling)
    (early : g.timesOut = false) : (g.flipStage false).1.Staged := by
  rw [flipStage_unready waits early]
  refine ok.wait waits (.inl ⟨rfl, ?_⟩)
  split
  · rfl
  · rename_i waiting
    exact ok.1.settle_eq_zero waiting

theorem Group.Staged.ready {g : Group} (ok : g.Staged) (waits : g.flip = .waiting ∨ g.flip = .settling)
    (early : g.timesOut = false) : (g.flipStage true).1.Staged := by
  by_cases settled : g.Settled
  · rw [flipStage_settled settled early]
    exact ok.execute waits
  · rcases waits with waiting | settling
    · have settles : g.settleFrames ≠ 0 := fun zero => settled (.inl ⟨waiting, zero⟩)
      rw [flipStage_begins_settling waiting early settles]
      exact ok.wait (.inl waiting) (.inr ⟨rfl, Nat.one_le_iff_ne_zero.mpr settles, le_refl _⟩)
    · have more : 1 < g.settle := by
        by_contra last
        exact settled (.inr ⟨settling, Nat.not_lt.mp last⟩)
      have top := ok.1.settle_le settling
      rw [flipStage_goes_on_settling settling early more]
      exact ok.wait (.inr settling) (.inr ⟨settling, by omega, by omega⟩)

theorem Group.Staged.fadeStage {g : Group} (ok : g.Staged) (fading : g.flip = .fading) : g.fadeStage.1.Staged := by
  by_cases more : g.fadeStep < g.fadeLength
  · rw [fadeStage_steps more]
    grind [Group.FlipOk, Group.HoldOk, Group.RangeOk, Group.hasSource, Group.Staged]
  · rw [fadeStage_completes (Nat.not_lt.mp more)]
    exact ok.complete (by simp [fading])

theorem Group.Staged.waitingStage {g : Group} (ok : g.Staged) (waits : g.flip = .waiting ∨ g.flip = .settling)
    (ready : Bool) : (g.flipStage ready).1.Staged := by
  cases overdue : g.timesOut with
  | true =>
    rw [flipStage_overdue waits overdue]
    exact ok.timeout waits
  | false =>
    cases ready with
    | false => exact ok.unready waits overdue
    | true => exact ok.ready waits overdue

theorem Group.Staged.flipStage {g : Group} (ok : g.Staged) (ready : Bool) : (g.flipStage ready).1.Staged := by
  cases flip : g.flip with
  | idle => rw [flipStage_idle flip]; exact ok
  | waiting => exact ok.waitingStage (.inl flip) ready
  | settling => exact ok.waitingStage (.inr flip) ready
  | fading => rw [flipStage_fading flip]; exact ok.fadeStage flip

theorem Group.Staged.holdStage {g : Group} (ok : g.Staged) (live : FrameView) : (g.holdStage live).Staged := by
  cases phase : g.phase with
  | free => rw [holdStage_free phase]; exact ok
  | captureDue =>
    by_cases idle : g.flip = .idle
    · rw [holdStage_captures phase idle]
      grind [Group.FlipOk, Group.HoldOk, Group.RangeOk, Group.hasSource, Group.Staged]
    · rw [holdStage_captureDue phase idle]
      exact ok
  | captured =>
    cases limit : g.limitApplies with
    | true =>
      rw [holdStage_limit limit]
      grind [Group.FlipOk, Group.HoldOk, Group.RangeOk, Group.hasSource, Group.Staged]
    | false =>
      rw [holdStage_ages phase limit]
      grind [Group.FlipOk, Group.HoldOk, Group.RangeOk, Group.hasSource, Group.Staged]
  | releaseDue =>
    rw [holdStage_releases phase]
    grind [Group.FlipOk, Group.HoldOk, Group.RangeOk, Group.hasSource, Group.Staged]

theorem Group.Staged.takePending {g : Group} (ok : g.Staged) : g.takePending.Ok := by
  by_cases stays : g.phase ≠ .free ∨ g.flip ≠ .idle ∨ g.pendingTarget = none
  · rw [takePending_none stays]
    obtain ⟨flip, hold, range, waits⟩ := ok
    have pending : g.phase = .free → g.flip ≠ .fading → g.pendingTarget = none := by
      cases state : g.flip <;> simp [state] at stays waits ⊢ <;> tauto
    refine ⟨flip, ?_, range⟩
    grind [Group.HoldOk, Group.hasSource]
  · have free : g.phase = .free := by tauto
    have idle : g.flip = .idle := by tauto
    obtain ⟨b, pending⟩ := Option.ne_none_iff_exists'.mp (fun nothing => stays (.inr (.inr nothing)))
    rw [takePending_some free idle pending]
    refine Group.Ok.request ?_ b
    grind [Group.Ok, Group.FlipOk, Group.RangeOk, Group.Staged]

end Sys2Proof.Machine
end

section
/-! PROOFS. O58: every command, every event and so every step keeps the group records and the stock lines legal and the
line-hold sets true (chapter 95). -/

namespace Sys2Proof.Machine

/-! ## Stock lines (R63, R65, R71) -/

/-- R65: one sample. -/
theorem Line.Ok.sampled {l : Line} (ok : l.Ok) (level : Bool) : (l.sampled level).Ok := by
  obtain ⟨low, high, run⟩ := ok
  cases changes : l.changes level with
  | true =>
    rw [Line.sampled_of_changes changes]
    exact ⟨low, high, low⟩
  | false =>
    by_cases agrees : decide (level = l.activeHigh) = l.active
    · rw [Line.sampled_of_agrees agrees]
      exact ⟨low, high, low⟩
    · have short : l.run + 1 < l.debounce := by
        by_contra full
        exact Bool.false_ne_true (changes.symm.trans ((l.changes_iff level).mpr ⟨agrees, Nat.not_lt.mp full⟩))
      rw [Line.sampled_of_short agrees short]
      exact ⟨low, high, short⟩

/-- R71: a line configured from a body in range. -/
theorem Line.Ok.configureLine {l : Line} (ok : l.Ok) {b : List Byte} (good : lineFieldsGood b = true) :
    (configureLine b l).Ok := by
  obtain ⟨-, -, run⟩ := ok
  obtain ⟨-, -, -, low, high, -⟩ := (lineFieldsGood_iff b).mp good
  refine ⟨low, high, ?_⟩
  rw [configureLine_run]
  split
  · rename_i same
    exact same.2 ▸ run
  · exact low

/-! ## The lines that hold a group (R66, R69) -/

/-- R66, R69: the GROUP_HOLD lines in force that name the group. -/
theorem holdingLines_iff (lines : Vector Line 8) (g : Fin 4) (i : Fin 8) :
    (holdingLines lines g).getLsbD i.val = true ↔
      lines[i].active = true ∧ lines[i].masked = false ∧ lines[i].function = .groupHold ∧
        lines[i].groups.getLsbD g.val = true := by
  rw [holdingLines_getLsbD, Bool.and_eq_true, Bool.and_eq_true, Line.inForce_iff, beq_iff_eq, and_assoc, and_assoc]

/-- A line holds the same groups as another with the same debounced state and the same configuration, or out of force. -/
theorem holdingLines_congr {before after : Vector Line 8} {i : Fin 8} (g : Fin 4)
    (same : after[i].active = before[i].active ∧
      (before[i].active = true →
        after[i].masked = before[i].masked ∧ after[i].function = before[i].function ∧ after[i].groups = before[i].groups)) :
    (holdingLines after g).getLsbD i.val = (holdingLines before g).getLsbD i.val := by
  obtain ⟨active, configured⟩ := same
  rw [Bool.eq_iff_iff, holdingLines_iff, holdingLines_iff, active]
  refine and_congr_right fun inForce => ?_
  obtain ⟨masked, function, groups⟩ := configured inForce
  rw [masked, function, groups]

/-- R67, R72: a true line-hold set is true again when the touched lines have landed. -/
theorem relineSets_true {before after : Vector Line 8} {touched : LineSet} {g : Fin 4} {x : Group}
    (held : x.lineHold = holdingLines before g)
    (untouched : ∀ i : Fin 8, touched.getLsbD i.val = false →
      (holdingLines after g).getLsbD i.val = (holdingLines before g).getLsbD i.val) :
    (x.relineSets touched (holdingLines after g)).lineHold = holdingLines after g := by
  refine lineSet_ext _ _ fun i => ?_
  simp only [Group.relineSets, held, BitVec.getLsbD_or, BitVec.getLsbD_and, BitVec.getLsbD_not, i.isLt, decide_true,
    Bool.true_and]
  cases touch : touched.getLsbD i.val with
  | true => simp
  | false =>
    rw [untouched i touch]
    simp

/-! ## The line-hold set through the work of a group -/

@[simp] theorem request_lineHold (b : Bank) (g : Group) : (g.request b).1.lineHold = g.lineHold := by rw [request_frame]

@[simp] theorem sourcesChanged_lineHold (g n : Group) : (g.sourcesChanged n).lineHold = n.lineHold := by
  rw [sourcesChanged_frame]

@[simp] theorem flipStage_lineHold (ready : Bool) (g : Group) : (g.flipStage ready).1.lineHold = g.lineHold := by
  rw [flipStage_frame]

@[simp] theorem holdStage_lineHold (live : FrameView) (g : Group) : (g.holdStage live).lineHold = g.lineHold := by
  rw [holdStage_frame]

@[simp] theorem takePending_lineHold (g : Group) : g.takePending.lineHold = g.lineHold := by
  unfold Group.takePending
  repeat' split
  all_goals simp

/-- R89: the three stages of a frame start leave a legal group legal. -/
theorem groupAfter_ok {s : State} {g : Fin 4} (ok : s.groups[g].Ok) : (s.groupAfter g).Ok :=
  ((ok.staged.flipStage (groupReady s.outputs g)).holdStage (frameView s (s.flipped g).1.shown)).takePending

theorem groupAfter_lineHold (s : State) (g : Fin 4) : (s.groupAfter g).lineHold = s.groups[g].lineHold := by
  simp [State.groupAfter, State.flipped]

/-! ## The invariant -/

/-- R63, R66, R69, R80: the group records and the stock lines are legal and the line-hold sets true. -/
structure State.PanelsOk (s : State) : Prop where
  groups : ∀ g : Fin 4, s.groups[g].Ok
  lines : ∀ i : Fin 8, s.lines[i].Ok
  holds : LineHoldsOk s.lines s.groups

/-- A state with the same lines, and groups that are legal and keep their line-hold sets. -/
theorem State.PanelsOk.of_groups {s t : State} (ok : s.PanelsOk) (groups : ∀ g : Fin 4, t.groups[g].Ok)
    (held : ∀ g : Fin 4, t.groups[g].lineHold = s.groups[g].lineHold) (lines : t.lines = s.lines := by simp) :
    t.PanelsOk where
  groups := groups
  lines := lines ▸ ok.lines
  holds g := lines ▸ (held g).trans (ok.holds g)

/-- A state with the same lines and groups. -/
theorem State.PanelsOk.of_eq {s t : State} (ok : s.PanelsOk) (lines : t.lines = s.lines := by simp)
    (groups : t.groups = s.groups := by simp) : t.PanelsOk :=
  ok.of_groups (fun g => groups ▸ ok.groups g) (fun g => by rw [groups]) lines

/-- A change of every group that keeps it legal and its line-hold set as it is. -/
theorem State.PanelsOk.map_groups {s t : State} (ok : s.PanelsOk) (f : Fin 4 → Group → Group)
    (changed : ∀ g : Fin 4, t.groups[g] = f g s.groups[g]) (legal : ∀ g x, x.Ok → (f g x).Ok)
    (held : ∀ g x, (f g x).lineHold = x.lineHold) (lines : t.lines = s.lines := by simp) : t.PanelsOk :=
  ok.of_groups (fun g => changed g ▸ legal g _ (ok.groups g)) (fun g => by rw [changed, held]) lines

/-! ## Commands -/

/-- R67, R72: legal lines landing, the untouched ones holding the groups they held. -/
theorem State.PanelsOk.landLines {s : State} (ok : s.PanelsOk) {touched : LineSet} {lines : Vector Line 8}
    (legal : ∀ i : Fin 8, lines[i].Ok)
    (untouched : ∀ (g : Fin 4) (i : Fin 8), touched.getLsbD i.val = false →
      (holdingLines lines g).getLsbD i.val = (holdingLines s.lines g).getLsbD i.val) :
    (s.landLines touched lines).PanelsOk where
  groups g := by simpa using (ok.groups g).reline touched (holdingLines lines g)
  lines := by simpa using legal
  holds g := by simpa [Group.reline] using relineSets_true (ok.holds g) (untouched g)

theorem State.PanelsOk.linePut {s : State} (ok : s.PanelsOk) {b : List Byte} (good : lineFieldsGood b = true) (i : Fin 8) :
    (s.landLines (withdrawn i s.lines[i]) (s.lines.set i (configureLine b s.lines[i]))).PanelsOk := by
  refine ok.landLines (fun j => ?_) (fun g j untouched => holdingLines_congr g ?_)
  · rw [getElem_set_fin]
    split
    · exact (ok.lines i).configureLine good
    · exact ok.lines j
  · rw [getElem_set_fin]
    split
    · rename_i same
      subst same
      refine ⟨rfl, fun active => ?_⟩
      have touched : (withdrawn j s.lines[j]).getLsbD j.val = true := by
        rw [withdrawn, if_pos active, oneLine_getLsbD, decide_eq_true rfl]
      exact absurd (untouched.symm.trans touched) Bool.false_ne_true
    · exact ⟨rfl, fun _ => ⟨rfl, rfl, rfl⟩⟩

/-- The effect keeps the groups and the lines legal. -/
def KeepsPanels (eff : List Byte → State → Answer) : Prop := ∀ b s, s.PanelsOk → (eff b s).state.PanelsOk

theorem keepsPanels_linePut : KeepsPanels linePut := by
  intro b s ok
  unfold linePut
  split
  · exact ok
  split
  · exact ok
  · rename_i good
    exact ok.linePut (by simpa using good) _

theorem keepsPanels_groupPut : KeepsPanels groupPut := by
  intro b s ok
  unfold groupPut
  split
  · exact ok
  split
  · exact ok
  rename_i good
  dsimp only
  split
  · exact ok
  · rename_i idle
    refine ok.of_groups (fun g => ?_) (fun g => ?_)
    · rw [Answer.done_state, getElem_set_fin]
      split
      · exact (ok.groups _).parameterise (not_not.mp idle) (by simpa using good)
      · exact ok.groups g
    · rw [Answer.done_state, getElem_set_fin]
      split
      · rename_i same
        rw [same]
        rfl
      · rfl

/-- R88, R109: one request to each group of a set. -/
theorem State.PanelsOk.sendFlip {s t : State} (ok : s.PanelsOk) {set : FourSet} {b : Bank}
    (sent : t.groups = sendFlip set b s.groups) (lines : t.lines = s.lines := by simp) : t.PanelsOk := by
  refine ok.map_groups (fun g x => if set.getLsbD g.val then (x.request b).1 else x)
    (fun g => by rw [sent, sendFlip_getElem]) (fun g x legal => ?_) (fun g x => ?_) lines
  · split
    · exact legal.request b
    · exact legal
  · split
    · exact request_lineHold b x
    · rfl

theorem keepsPanels_flipCommand : KeepsPanels flipCommand := by
  intro b s ok
  unfold flipCommand
  split
  · exact ok
  split
  · exact ok
  · exact ok.sendFlip rfl

theorem keepsPanels_holdOrRelease (f : Bool) : KeepsPanels (holdOrRelease f) := by
  intro b s ok
  unfold holdOrRelease
  split
  · exact ok
  split
  · exact ok
  · refine ok.map_groups (fun g x => if (BitVec.ofNat 4 (u8 b 0)).getLsbD g.val then x.setCommandHold f else x)
      (fun g => by simp [holdGroups]) (fun g x legal => ?_) (fun g x => ?_)
    · split
      · exact legal.setCommandHold f
      · exact legal
    · split
      · exact sourcesChanged_lineHold _ _
      · rfl

/-- R113: a resync sends one request to each group that an entry covers. -/
theorem State.PanelsOk.resync {s : State} (ok : s.PanelsOk) : (resync s).state.PanelsOk := by
  refine ok.map_groups (fun g x => resyncGroup (chooseEntry (instant s.clock.day s.clock.second) g s.schedule) x)
    (fun g => by simp [Machine.resync]) (fun g x legal => ?_) (fun g x => ?_) rfl
  · unfold resyncGroup
    split
    · exact legal
    · exact legal.request _
  · unfold resyncGroup
    split
    · rfl
    · exact request_lineHold _ x

theorem keepsPanels_clockSet : KeepsPanels clockSet := by
  intro b s ok
  unfold clockSet
  split
  · split
    · exact ok.resync
    · exact ok
  split
  · exact ok
  split
  · exact ok
  · exact State.PanelsOk.resync (ok.of_eq rfl rfl)

/-- R80: the reset values of a group are legal. -/
theorem Group.ok_reset : Group.reset.Ok := by
  refine ⟨?_, ⟨by decide, by decide, ?_⟩, ?_⟩ <;> simp [Group.FlipOk, Group.RangeOk, Group.reset]

/-- R163, R164: a full reset. -/
theorem panelsOk_fullReset (s : State) : s.fullReset.PanelsOk where
  groups g := by
    have reset : s.fullReset.groups[g] = Group.reset := by simp [State.fullReset, State.reset]
    rw [reset]
    exact Group.ok_reset
  lines i := by
    have reset : s.fullReset.lines[i] = Line.reset := by simp [State.fullReset, State.reset]
    rw [reset]
    exact ⟨by decide, by decide, by decide⟩
  holds g := by
    change (Vector.replicate 4 Group.reset)[g].lineHold = holdingLines (Vector.replicate 8 Line.reset) g
    revert g
    decide

theorem keepsPanels_restart : KeepsPanels restart := by
  intro b s ok
  unfold restart
  split
  · exact ok
  · exact panelsOk_fullReset s

/-- The effect writes no line and no group. -/
def LeavesPanels (eff : List Byte → State → Answer) : Prop :=
  ∀ b s, (eff b s).state.lines = s.lines ∧ (eff b s).state.groups = s.groups

theorem LeavesPanels.keeps {eff : List Byte → State → Answer} (leaves : LeavesPanels eff) : KeepsPanels eff := by
  intro b s ok
  obtain ⟨lines, groups⟩ := leaves b s
  exact ok.of_eq lines groups

/-- The effects that write no line and no group. -/
def panelFreeEffects : List (List Byte → State → Answer) :=
  [itemPut, itemDrop, itemGet, itemList, pricePut, formatPut, formatGet, formatMode, slotPut, slotDrop, slotGet, mark, availList,
    lineGet, groupGet, clockGet, schedulePut, scheduleDrop, scheduleGet, outputPut, outputGet, panelRelink, feedPut, feedGet,
    status, noticePut, artOpen, artWrite, artClose, artDrop, artGet, unknown]

theorem leavesPanels_of_free {eff : List Byte → State → Answer} (h : eff ∈ panelFreeEffects) : LeavesPanels eff := by
  intro b s
  simp only [panelFreeEffects, List.mem_cons, List.not_mem_nil, or_false] at h
  rcases h with rfl | rfl | rfl | rfl | rfl | rfl | rfl | rfl | rfl | rfl | rfl | rfl | rfl | rfl | rfl | rfl | rfl | rfl | rfl |
    rfl | rfl | rfl | rfl | rfl | rfl | rfl | rfl | rfl | rfl | rfl | rfl | rfl
  all_goals
    simp only [itemPut, itemDrop, itemGet, itemList, pricePut, formatPut, formatGet, formatMode, slotPut, slotDrop, slotGet, mark,
      availList, lineGet, groupGet, clockGet, schedulePut, scheduleDrop, scheduleGet, outputPut, outputGet, panelRelink, feedPut,
      feedGet, status, State.clearLatches, noticePut, artOpen, Machine.artOpenAt, artWrite, artClose, artDrop, artGet, unknown,
      State.putItem, State.rebindSlot]
    repeat' split
  all_goals simp

/-! ## The command index and the gate (R155, R158, R159, R165) -/

/-- R165: every effect of the command index keeps the groups and the lines legal. -/
theorem keepsPanels_commandEffect {code : Byte} {eff : List Byte → State → Answer} (h : commandEffect code = some eff) :
    KeepsPanels eff := by
  unfold commandEffect at h
  split at h <;> cases h
  -- The cases stand in the order of the index.
  case h_1 => exact keepsPanels_restart
  case h_15 => exact keepsPanels_linePut
  case h_17 => exact keepsPanels_groupPut
  case h_19 => exact keepsPanels_flipCommand
  case h_20 => exact keepsPanels_holdOrRelease true
  case h_21 => exact keepsPanels_holdOrRelease false
  case h_22 => exact keepsPanels_clockSet
  all_goals exact (leavesPanels_of_free (by simp [panelFreeEffects])).keeps

theorem keepsPanels_unknown : KeepsPanels unknown := fun _ _ ok => ok

theorem keepsPanels_getD (code : Byte) : KeepsPanels ((commandEffect code).getD unknown) := by
  cases named : commandEffect code with
  | none => exact keepsPanels_unknown
  | some eff => exact keepsPanels_commandEffect named

theorem Answer.settle_panelsOk {a : Answer} (ok : a.state.PanelsOk) (code : Byte) : (a.settle code).PanelsOk := by
  unfold Answer.settle
  split
  · exact ok
  · exact ok.of_eq

theorem State.PanelsOk.considerCommand {s : State} (ok : s.PanelsOk) {eff : List Byte → State → Answer}
    (keeps : KeepsPanels eff) (code : Byte) (b : List Byte) : (considerCommand code eff b s).PanelsOk := by
  unfold Machine.considerCommand
  split
  · exact ok.of_eq
  · exact Answer.settle_panelsOk (keeps b _ ok.of_eq) code

theorem State.PanelsOk.sendCommand {s : State} (ok : s.PanelsOk) {eff : List Byte → State → Answer}
    (keeps : KeepsPanels eff) (code : Byte) (b : List Byte) : (sendCommand code eff b s).PanelsOk := by
  unfold Machine.sendCommand
  split
  · exact ok.considerCommand keeps code b
  · exact ok

/-! ## The margin channel (R153 to R158) -/

theorem State.PanelsOk.cutPacket {s : State} (ok : s.PanelsOk) : s.cutPacket.PanelsOk := by
  unfold State.cutPacket
  exact ok.of_eq

theorem State.PanelsOk.takeRelay {s : State} (ok : s.PanelsOk) (dest : Nat) (packet : List Byte) :
    (s.takeRelay dest packet).PanelsOk := by
  have spec := (takeRelay_spec dest packet s).1
  rw [spec]
  exact ok.of_eq

theorem State.PanelsOk.considerPacket {s : State} (ok : s.PanelsOk) (packet : List Byte) :
    (s.considerPacket packet).PanelsOk := by
  unfold State.considerPacket
  split
  · exact ok.of_eq
  split
  · exact ok.considerCommand (keepsPanels_getD _) _ _
  split
  · exact ok.takeRelay _ packet
  · exact ok.of_eq

theorem State.PanelsOk.readPacket {s : State} (ok : s.PanelsOk) (bytes : List Byte) : (s.readPacket bytes).PanelsOk := by
  unfold State.readPacket
  split
  · exact ok
  split
  · exact ok.of_eq
  split
  · exact ok.cutPacket
  split
  · exact ok.cutPacket
  split
  · exact ok.cutPacket
  · exact State.PanelsOk.considerPacket ok.of_eq _

/-! ## The frame start (R146) -/

theorem takeFrame_sampledLines (pins : FramePins) (s : State) :
    (s.takeFrame pins).lines = sampledLines pins.lines s.lines :=
  vector_ext_fin fun i => (takeFrame_lines pins s i).trans (by simp [sampledLines])

/-- R65: a line that does not change at a frame start keeps its debounced state, and every line its configuration. -/
theorem sampled_configuration (level : Bool) (l : Line) :
    (l.sampled level).masked = l.masked ∧ (l.sampled level).function = l.function ∧
      (l.sampled level).groups = l.groups ∧ (l.changes level = false → (l.sampled level).active = l.active) := by
  unfold Line.sampled
  split
  · rename_i changes
    simp [changes]
  · split <;> simp

/-- R67: a line that does not change at a frame start holds the groups it held. -/
theorem holdingLines_sampled (levels : LineSet) (lines : Vector Line 8) (g : Fin 4) (i : Fin 8)
    (unchanged : (changedLines levels lines).getLsbD i.val = false) :
    (holdingLines (sampledLines levels lines) g).getLsbD i.val = (holdingLines lines g).getLsbD i.val := by
  rw [changedLines_getLsbD] at unchanged
  obtain ⟨masked, function, groups, active⟩ := sampled_configuration (levels.getLsbD i.val) lines[i]
  refine holdingLines_congr g ?_
  rw [sampledLines, Fin.getElem_fin, getElem_tab]
  exact ⟨active unchanged, fun _ => ⟨masked, function, groups⟩⟩

/-- R67, R69: a frame start leaves the line-hold set true to the lines sampled at it. -/
theorem takeFrame_lineHold {pins : FramePins} {s : State} {g : Fin 4} (held : s.groups[g].lineHold = holdingLines s.lines g) :
    (s.takeFrame pins).groups[g].lineHold = holdingLines (s.takeFrame pins).lines g := by
  have before : ((s.beforeGroups pins).groupAfter g).lineHold = holdingLines s.lines g := by
    rw [groupAfter_lineHold, beforeGroups_groups]
    exact held
  rw [takeFrame_groups, takeFrame_sampledLines]
  refine foldl_request_keeps (P := fun x => x.lineHold = holdingLines (sampledLines pins.lines s.lines) g)
    (fun b x same => (request_lineHold b x).trans same) (fun i : Fin 8 => s.lines[i].target) _ ?_
  rw [Group.reline, sourcesChanged_lineHold]
  exact relineSets_true before (holdingLines_sampled pins.lines s.lines g)

theorem State.PanelsOk.takeFrame {s : State} (ok : s.PanelsOk) (pins : FramePins) : (s.takeFrame pins).PanelsOk where
  groups g := by
    have before : ((s.beforeGroups pins).groups[g]).Ok := by simpa using ok.groups g
    rw [takeFrame_groups]
    exact foldl_request_keeps (fun b _ legal => legal.request b) (fun i : Fin 8 => s.lines[i].target) _
      ((groupAfter_ok before).reline _ _)
  lines i := by
    rw [takeFrame_lines]
    exact (ok.lines i).sampled _
  holds g := takeFrame_lineHold (ok.holds g)

theorem State.PanelsOk.frameIf {s : State} (ok : s.PanelsOk) (due : Bool) (pins : FramePins) :
    (s.frameIf due pins).PanelsOk := by
  unfold State.frameIf
  split
  · exact ok.takeFrame pins
  · exact ok

/-! ## Input frames (R141 to R148) -/

theorem State.PanelsOk.enterCoasting {s : State} (ok : s.PanelsOk) : s.enterCoasting.PanelsOk := ok.of_eq rfl rfl

theorem State.PanelsOk.lock {s : State} (ok : s.PanelsOk) (g : Geometry) (period : Nat) (f : InputFrame) :
    (s.lock g period f).PanelsOk := by
  unfold State.lock State.accept
  exact ok.of_eq

theorem State.PanelsOk.train {s : State} (ok : s.PanelsOk) (f : InputFrame) : (s.train f).PanelsOk := by
  have trained : ∀ t, (s.setTraining t).PanelsOk := fun t => ok.of_eq rfl rfl
  unfold State.train
  dsimp only
  split
  · exact (trained .empty).of_eq
  split
  · exact trained _
  · split <;> exact trained _
  · split
    · exact (ok.lock _ _ f).frameIf true f.pins
    · exact trained _

theorem State.PanelsOk.checkFrame {s : State} (ok : s.PanelsOk) (f : InputFrame) : (s.checkFrame f).PanelsOk := by
  unfold State.checkFrame State.discardFrame
  split
  · exact ok.of_eq rfl rfl
  · refine State.PanelsOk.frameIf ?_ f.overdue f.pins
    exact ok.enterCoasting.of_eq

theorem State.PanelsOk.completeFrame {s : State} (ok : s.PanelsOk) : s.completeFrame.PanelsOk := by
  unfold State.completeFrame State.photoWatch
  split
  · exact ok.of_eq
  · exact ok.of_eq rfl rfl

/-! ## The second tick, the return lanes and the return arbiter (R109, R129, R169, R173) -/

/-- R109: what every flip request keeps, the requests of schedule entries keep. -/
theorem fireEntries_keeps {P : Group → Prop} (keeps : ∀ b x, P x → P (Group.request b x).1) (entries : List (Nat × Entry))
    {groups : Vector Group 4} {g : Fin 4} (holds : P groups[g]) : P (fireEntries entries groups)[g] := by
  induction entries generalizing groups with
  | nil => exact holds
  | cons e rest ih =>
    refine ih (groups := sendFlip e.2.groups e.2.target groups) ?_
    rw [sendFlip_getElem]
    split
    · exact keeps _ _ holds
    · exact holds

theorem State.PanelsOk.tickClock {s : State} (ok : s.PanelsOk) : s.tickClock.PanelsOk := by
  have groups : s.tickClock.groups = fireEntries (firing s.clock.tick s.schedule) s.groups := by simp [State.tickClock]
  refine ok.of_groups (fun g => ?_) (fun g => ?_) (by simp [State.tickClock])
  · rw [groups]
    exact fireEntries_keeps (fun b _ legal => legal.request b) _ (ok.groups g)
  · rw [groups]
    exact fireEntries_keeps (P := fun x => x.lineHold = s.groups[g].lineHold)
      (fun b x same => (request_lineHold b x).trans same) _ rfl

theorem State.PanelsOk.joinUp {s : State} (ok : s.PanelsOk) (k : Fin 4) (p : PanelPacket) : (s.joinUp k p).PanelsOk := by
  unfold State.joinUp
  dsimp only
  split
  · exact ok
  split
  · exact ok.of_eq
  · exact ok.of_eq

theorem State.PanelsOk.sendNotice {s : State} (ok : s.PanelsOk) (i : Fin 14) (detail : Word) :
    (s.sendNotice i detail).PanelsOk := by
  unfold State.sendNotice
  exact ok.of_eq

/-- R169: serving a class takes a packet from its queue and moves the pointers. -/
theorem State.PanelsOk.serve {s t : State} (ok : s.PanelsOk) {c : ReturnClass} (served : s.serve c = some t) :
    t.PanelsOk := by
  cases c with
  | reply =>
    simp only [State.serve, State.serveReply] at served
    split at served
    · cases served
    · cases served
      exact ok.of_eq
  | relay =>
    simp only [State.serve, State.serveRelay] at served
    split at served
    · cases served
    · split at served
      · cases served
      · cases served
        unfold State.sendRelay
        exact ok.of_eq
  | notice =>
    simp only [State.serve, State.serveNotice] at served
    split at served
    · cases served
    · cases served
      exact State.PanelsOk.sendNotice ok.of_eq _ _

theorem State.PanelsOk.arbitrate {s : State} (ok : s.PanelsOk) : s.arbitrate.PanelsOk := by
  unfold State.arbitrate
  split
  · exact ok.sendNotice _ _
  · cases served : s.lane.classPointer.cycle.findSome? (fun c => s.serve c) with
    | none => exact ok.of_eq
    | some t =>
      obtain ⟨c, -, from_c⟩ := List.exists_of_findSome?_eq_some served
      exact ok.serve from_c

/-! ## Every step -/

/-- A row that is no command: what its event leaves. -/
theorem State.PanelsOk.exec_event {s t : State} (ok : s.PanelsOk) {i : Instr} (event : commandOf i = none)
    (ran : exec i s = .next t) : t.PanelsOk := by
  cases i <;> try cases event
  all_goals obtain rfl := Host.Outcome.next.inj ran
  case unknownCommand code b =>
    split
    · exact ok.sendCommand keepsPanels_unknown code b
    · exact ok
  case marginPacket bytes =>
    split
    · exact ok.readPacket bytes
    · exact ok
  case resetPinAsserted => exact panelsOk_fullReset _
  case resetPinReleased =>
    split
    · exact panelsOk_fullReset _
    · exact ok
  case powerUp => exact panelsOk_fullReset s
  case signalFound => exact ok.of_eq
  case signalLost cutShort =>
    split
    · exact ok.cutPacket.of_eq
    · exact ok.of_eq
  case inputFrameStart f =>
    split
    · exact ok
    · exact ok.train f
    · exact ok.train f
    · exact ok.checkFrame f
  case missingFrame pins =>
    split
    · exact ok.enterCoasting.frameIf true pins
    · exact ok
  case inputFrameComplete =>
    split
    · exact ok.completeFrame
    · exact ok
  case watchFramesReached n =>
    split
    · exact ok.completeFrame
    · exact ok
  case secondTick =>
    split
    · exact ok.tickClock
    · exact ok
  case abilityWord k bytes =>
    split
    · exact ok
    · split
      · unfold State.hearWord
        exact ok.of_eq
      · exact ok
  case panelPacket k bytes =>
    split
    · exact ok
    · split
      · exact ok.joinUp k _
      · exact ok
  case unknownUnit k kind =>
    split
    · exact ok
    · exact ok.of_eq
  case returnSlot =>
    split
    · exact ok.arbitrate
    · exact ok
  all_goals exact ok.frameIf _ _

/-- Every row keeps the groups and the lines legal. -/
theorem State.PanelsOk.exec {s t : State} (ok : s.PanelsOk) {i : Instr} (ran : exec i s = .next t) : t.PanelsOk := by
  cases command : commandOf i with
  | none => exact ok.exec_event command ran
  | some sent =>
    obtain ⟨eff, named, sends⟩ := exec_command command s
    rw [sends] at ran
    cases ran
    exact ok.sendCommand (commandEffect_eq_effectOf command named ▸ keepsPanels_getD _) _ _

theorem State.PanelsOk.step {s t : State} (ok : s.PanelsOk) (ran : step s = .next t) : t.PanelsOk := by
  unfold Machine.step at ran
  split at ran
  · cases ran
    exact ok
  · rename_i rest _
    have waiting : ({ s with pending := rest } : State).PanelsOk := ok.of_eq
    exact waiting.exec ran

/-- Settles O58: the lines that hold a group, and the invariant of the groups and lines, kept by every row and so by every
step. -/
theorem stepKeepsGroupsAndLines : Obligations.StepKeepsGroupsAndLines := by
  refine ⟨holdingLines_iff, ?_⟩
  intro s t ran groups lines holds
  have after := State.PanelsOk.step ⟨groups, lines, holds⟩ ran
  exact ⟨after.groups, after.lines, after.holds⟩

end Sys2Proof.Machine
end

section
/-! PROOFS. O50: the frame starts named by a flip's timeout, its execution, a fade's completion and a hold limit (R90, R93, R94,
R104). -/

namespace Sys2Proof.Machine

/-! ## Which event the first stage gives (R90 to R94) -/

/-- R90: the timeout of a waiting or settling flip is due. -/
def Group.Overdue (g : Group) : Prop := (g.flip = .waiting ∨ g.flip = .settling) ∧ g.timesOut = true

theorem overdue_iff (g : Group) :
    g.Overdue ↔
      (g.flip = .waiting ∨ g.flip = .settling) ∧ g.timeoutFrames ≠ 0 ∧ g.timeoutFrames ≤ min 65535 (g.age + 1) := by
  rw [Group.Overdue, timesOut_iff]

/-- A settled flip is waiting or settling. -/
theorem Group.Settled.waits {g : Group} (settled : g.Settled) : g.flip = .waiting ∨ g.flip = .settling :=
  settled.imp And.left And.left

/-- R91, R92: a waiting or settling flip whose timeout is not due executes once the group is ready and has settled. -/
theorem flipStage_early {g : Group} (waits : g.flip = .waiting ∨ g.flip = .settling) (early : g.timesOut = false)
    (ready : Bool) :
    (ready = true ∧ g.Settled ∧ g.flipStage ready = (g.execute, .executes)) ∨
      (¬ (ready = true ∧ g.Settled) ∧ (g.flipStage ready).2 = .goesOn) := by
  cases ready with
  | false => exact .inr ⟨by simp, by rw [flipStage_unready waits early]⟩
  | true =>
    by_cases settled : g.Settled
    · exact .inl ⟨rfl, settled, flipStage_settled settled early⟩
    · refine .inr ⟨fun both => settled both.2, ?_⟩
      rcases waits with waiting | settling
      · rw [flipStage_begins_settling waiting early (fun zero => settled (.inl ⟨waiting, zero⟩))]
      · rw [flipStage_goes_on_settling settling early (Nat.not_le.mp (fun last => settled (.inr ⟨settling, last⟩)))]

/-- R89 to R94: the ways through the first stage. -/
theorem flipStage_cases (ready : Bool) (g : Group) :
    (g.flip = .idle ∧ (g.flipStage ready).2 = .goesOn) ∨ (g.Overdue ∧ g.flipStage ready = g.timeout) ∨
      (¬ g.Overdue ∧ ready = true ∧ g.Settled ∧ g.flipStage ready = (g.execute, .executes)) ∨
      (¬ g.Overdue ∧ ¬ (ready = true ∧ g.Settled) ∧ g.flip ≠ .fading ∧ (g.flipStage ready).2 = .goesOn) ∨
      (g.flip = .fading ∧ g.flipStage ready = g.fadeStage) := by
  by_cases waits : g.flip = .waiting ∨ g.flip = .settling
  · cases due : g.timesOut with
    | true => exact .inr (.inl ⟨⟨waits, due⟩, flipStage_overdue waits due ready⟩)
    | false =>
      have early : ¬ g.Overdue := fun overdue => Bool.false_ne_true (due.symm.trans overdue.2)
      rcases flipStage_early waits due ready with ⟨isReady, settled, executes⟩ | ⟨unsettled, goesOn⟩
      · exact .inr (.inr (.inl ⟨early, isReady, settled, executes⟩))
      · have unfading : g.flip ≠ .fading := by rcases waits with flip | flip <;> simp [flip]
        exact .inr (.inr (.inr (.inl ⟨early, unsettled, unfading, goesOn⟩)))
  · cases flip : g.flip with
    | idle => exact .inl ⟨rfl, by rw [flipStage_idle flip]⟩
    | fading => exact .inr (.inr (.inr (.inr ⟨rfl, flipStage_fading flip ready⟩)))
    | waiting => exact absurd (.inl flip) waits
    | settling => exact absurd (.inr flip) waits

theorem timeout_event (g : Group) : g.timeout.2 = if g.force then .forced else .abandoned := by
  unfold Group.timeout
  split <;> rfl

theorem fadeStage_event (g : Group) :
    g.fadeStage.2 = if g.fadeLength < g.fadeStep + 1 then .fadeCompletes else .goesOn := by
  unfold Group.fadeStage
  split <;> rfl

/-- R90: the timeout applies exactly when it is due. -/
theorem flipStage_timesOut_iff (ready : Bool) (g : Group) :
    (g.flipStage ready).2 = .abandoned ∨ (g.flipStage ready).2 = .forced ↔ g.Overdue := by
  rcases flipStage_cases ready g with ⟨idle, event⟩ | ⟨overdue, stage⟩ | ⟨early, -, -, stage⟩ | ⟨early, -, -, event⟩ |
    ⟨fading, stage⟩
  · simp [event, Group.Overdue, idle]
  · rw [stage, timeout_event]
    cases g.force <;> simp [overdue]
  · simp [stage, early]
  · simp [event, early]
  · rw [stage, fadeStage_event]
    split <;> simp [Group.Overdue, fading]

/-- R93: the flip executes under FORCE, or when the group is ready and has settled in time. -/
theorem flipStage_executes_iff (ready : Bool) (g : Group) :
    (g.flipStage ready).2 = .executes ∨ (g.flipStage ready).2 = .forced ↔
      (g.Overdue ∧ g.force = true) ∨ (¬ g.Overdue ∧ ready = true ∧ g.Settled) := by
  rcases flipStage_cases ready g with ⟨idle, event⟩ | ⟨overdue, stage⟩ | ⟨early, isReady, settled, stage⟩ |
    ⟨early, unsettled, -, event⟩ | ⟨fading, stage⟩
  · simp [event, Group.Overdue, Group.Settled, idle]
  · rw [stage, timeout_event]
    cases g.force <;> simp [overdue]
  · rw [stage]
    simp [early, isReady, settled]
  · simp only [event, early, unsettled, reduceCtorEq, false_and, and_false, or_self]
  · rw [stage, fadeStage_event]
    split <;> simp [Group.Overdue, Group.Settled, fading]

/-- R94: the fade completes after its last step. -/
theorem flipStage_fadeCompletes_iff (ready : Bool) (g : Group) :
    (g.flipStage ready).2 = .fadeCompletes ↔ g.flip = .fading ∧ g.fadeLength < g.fadeStep + 1 := by
  rcases flipStage_cases ready g with ⟨idle, event⟩ | ⟨overdue, stage⟩ | ⟨-, -, settled, stage⟩ | ⟨-, -, unfading, event⟩ |
    ⟨fading, stage⟩
  · simp [event, idle]
  · rw [stage, timeout_event]
    rcases overdue.1 with flip | flip <;> cases g.force <;> simp [flip]
  · rcases settled.waits with flip | flip <;> simp [stage, flip]
  · simp [event, unfading]
  · rw [stage, fadeStage_event]
    simp [fading]

/-- R93: where the flip executes, the first stage leaves what the execution makes of the group. -/
theorem flipStage_of_executes {ready : Bool} {g : Group}
    (executes : (g.Overdue ∧ g.force = true) ∨ (¬ g.Overdue ∧ ready = true ∧ g.Settled)) :
    (g.flipStage ready).1 = g.execute := by
  rcases executes with ⟨⟨waits, due⟩, policy⟩ | ⟨early, rfl, settled⟩
  · rw [flipStage_overdue waits due, timeout_forces policy]
  · have inTime : g.timesOut = false := Bool.eq_false_iff.mpr fun due => early ⟨settled.waits, due⟩
    rw [flipStage_settled settled inTime]

/-- R90: an abandoned flip leaves the shown bank. -/
theorem flipStage_of_abandoned {ready : Bool} {g : Group} (overdue : g.Overdue) (policy : g.force = false) :
    (g.flipStage ready).1.shown = g.shown := by
  rw [flipStage_overdue overdue.1 overdue.2, timeout_abandons policy]

theorem flipStage_of_fadeCompletes {ready : Bool} {g : Group} (fading : g.flip = .fading)
    (last : g.fadeLength < g.fadeStep + 1) : (g.flipStage ready).1 = g.complete := by
  rw [flipStage_fading fading, fadeStage_completes (Nat.lt_succ_iff.mp last)]

/-! ## What the rest of the frame start leaves of it -/

theorem takePending_keeps {P : Group → Prop} (drops : ∀ x, P x → P { x with pendingTarget := none })
    (requests : ∀ b x, P x → P (Group.request b x).1) {g : Group} (holds : P g) : P g.takePending := by
  unfold Group.takePending
  split
  · split
    · exact holds
    · exact requests _ _ (drops g holds)
  · exact holds

/-- R103, R67, R70: what a pending target, the lines landing and the flip requests keep of a group after its second stage, the
frame start keeps. -/
theorem takeFrame_keeps {P : Group → Prop} (drops : ∀ x, P x → P { x with pendingTarget := none })
    (lands : ∀ touched holding x, P x → P (x.reline touched holding)) (requests : ∀ b x, P x → P (Group.request b x).1)
    {pins : FramePins} {s : State} {g : Fin 4}
    (holds : P (((s.beforeGroups pins).flipped g).1.holdStage
      (frameView (s.beforeGroups pins) ((s.beforeGroups pins).flipped g).1.shown))) :
    P (s.takeFrame pins).groups[g] := by
  rw [takeFrame_groups]
  exact foldl_request_keeps requests (fun i : Fin 8 => s.lines[i].target) _
    (lands _ _ _ (takePending_keeps drops requests holds))

/-- R34, R93: the first stage settles the shown bank. -/
theorem takeFrame_shown (pins : FramePins) (s : State) (g : Fin 4) :
    (s.takeFrame pins).groups[g].shown = ((s.beforeGroups pins).flipped g).1.shown := by
  refine takeFrame_keeps (P := fun x => x.shown = ((s.beforeGroups pins).flipped g).1.shown) (fun _ same => same)
    (fun _ _ x same => ?_) (fun b x same => ?_) ?_
  · rw [Group.reline, sourcesChanged_frame]
    exact same
  · rw [request_frame]
    exact same
  · rw [holdStage_frame]

/-- A group at a step of a fade. -/
def Group.FadingAt (step length : Nat) (g : Group) : Prop := g.flip = .fading ∧ g.fadeStep = step ∧ g.fadeLength = length

/-- R86: a flip request leaves a fade going on. -/
theorem Group.FadingAt.request {step length : Nat} {g : Group} (fading : g.FadingAt step length) (b : Bank) :
    (g.request b).1.FadingAt step length := by
  by_cases free : g.phase = .free
  · rw [request_fading free fading.1, Group.requestFading]
    split <;> exact fading
  · rw [request_holding free]
    exact fading

/-- R99: so does a change of the hold sources. -/
theorem Group.FadingAt.sourcesChanged {step length : Nat} {n : Group} (fading : n.FadingAt step length) (g : Group) :
    (g.sourcesChanged n).FadingAt step length := by
  have unstopped : ¬ (n.flip = .waiting ∨ n.flip = .settling) := by simp [fading.1]
  have begins : n.beginHold = { n with phase := .captureDue } := if_neg unstopped
  unfold Group.sourcesChanged Group.gainSource Group.loseSource
  simp only [begins]
  repeat' split
  all_goals exact fading

/-- R100 to R104: so does the second stage. -/
theorem Group.FadingAt.holdStage {step length : Nat} {g : Group} (fading : g.FadingAt step length) (live : FrameView) :
    (g.holdStage live).FadingAt step length := by
  rw [holdStage_frame]
  exact ⟨fading.1, fading.2⟩

/-- R93: a fade that the first stage begins goes on after the frame start. -/
theorem takeFrame_fadingAt {step length : Nat} {pins : FramePins} {s : State} {g : Fin 4}
    (fading : ((s.beforeGroups pins).flipped g).1.FadingAt step length) :
    (s.takeFrame pins).groups[g].FadingAt step length := by
  refine takeFrame_keeps (P := Group.FadingAt step length) (fun _ same => same)
    (fun touched holding x same => Group.FadingAt.sourcesChanged (n := x.relineSets touched holding) same x)
    (fun b _ same => same.request b) (fading.holdStage _)

/-- R104: a hold ended by its limit has no command hold and no capture. -/
def Group.Ended (g : Group) : Prop := g.commandHold = false ∧ g.capture = none

theorem takeFrame_ended {pins : FramePins} {s : State} {g : Fin 4}
    (limit : ((s.beforeGroups pins).flipped g).1.limitApplies = true) : (s.takeFrame pins).groups[g].Ended := by
  refine takeFrame_keeps (P := Group.Ended) (fun _ ended => ended) (fun touched holding x ended => ⟨?_, ?_⟩)
    (fun b x ended => ?_) ?_
  · rw [Group.reline, sourcesChanged_frame]
    exact ended.1
  · exact (reline_capture touched holding x).elim id (fun same => same.trans ended.2)
  · rw [request_frame]
    exact ended
  · rw [holdStage_limit limit]
    exact ⟨rfl, rfl⟩

/-- R101: the first stage moves neither the hold phase nor the hold limit nor the hold age. -/
theorem limitApplies_flipStage (ready : Bool) (g : Group) : (g.flipStage ready).1.limitApplies = g.limitApplies := by
  rw [flipStage_frame]
  rfl

theorem flipped_beforeGroups (pins : FramePins) (s : State) (g : Fin 4) :
    (s.beforeGroups pins).flipped g = s.groups[g].flipStage (groupReady (s.beforeGroups pins).outputs g) := by
  rw [State.flipped, beforeGroups_groups]

/-! ## The frame starts that are named -/

/-- R93: what a flip that executes at a frame start leaves: the target shown, or the first step of a fade. -/
theorem takeFrame_executed {pins : FramePins} {s : State} {g : Fin 4}
    (stage : ((s.beforeGroups pins).flipped g).1 = s.groups[g].execute) :
    (s.groups[g].fadeFrames = 0 → ∀ b, s.groups[g].target = some b → (s.takeFrame pins).groups[g].shown = b) ∧
      (s.groups[g].fadeFrames ≠ 0 →
        (s.takeFrame pins).groups[g].FadingAt 1 s.groups[g].fadeFrames ∧
          (s.takeFrame pins).groups[g].shown = s.groups[g].shown) := by
  refine ⟨fun length b target => ?_, fun length => ⟨takeFrame_fadingAt ?_, ?_⟩⟩
  · rw [takeFrame_shown, stage, execute_at_once length, complete_eq target]
  · rw [stage, execute_fades length]
    exact ⟨rfl, rfl, rfl⟩
  · rw [takeFrame_shown, stage, execute_fades length]

/-- Settles O50: each named event is the frame start exactly when it is due, and the frame start brings it about. -/
theorem groupThresholdFrameStarts : Obligations.GroupThresholdFrameStarts := by
  intro pins s released
  refine ⟨s.takeFrame pins, exec_frameStart released, fun g ready overdue readiness meaning => ?_⟩
  have isReady : groupReady (s.beforeGroups pins).outputs g = true ↔ ready :=
    (groupReady_beforeGroups pins s g).trans readiness.symm
  have isOverdue : s.groups[g].Overdue ↔ overdue := (overdue_iff _).trans meaning.symm
  have event : s.flipEventAt g pins = (s.groups[g].flipStage (groupReady (s.beforeGroups pins).outputs g)).2 := by
    rw [State.flipEventAt, flipped_beforeGroups]
  have timesOut : (s.flipEventAt g pins == .abandoned || s.flipEventAt g pins == .forced) = true ↔ overdue := by
    rw [Bool.or_eq_true, beq_iff_eq, beq_iff_eq, event, flipStage_timesOut_iff, isOverdue]
  have completes : (s.flipEventAt g pins == .fadeCompletes) = true ↔
      s.groups[g].flip = .fading ∧ s.groups[g].fadeLength < s.groups[g].fadeStep + 1 := by
    rw [beq_iff_eq, event, flipStage_fadeCompletes_iff]
  obtain ⟨timeoutWhole, timeoutIdle⟩ := next_frameIf timesOut pins released
  obtain ⟨completeWhole, completeIdle⟩ := next_frameIf completes pins released
  refine ⟨timeoutWhole, fun due policy => ?abandoned, timeoutIdle, fun executes executesMeaning => ?execute,
    fun due => ⟨completeWhole due, fun b target => ?complete⟩, completeIdle, fun due limitMeaning => ?limit⟩
  case abandoned =>
    rw [takeFrame_shown, flipped_beforeGroups, flipStage_of_abandoned (isOverdue.mpr due) policy]
  case complete =>
    rw [takeFrame_shown, flipped_beforeGroups, flipStage_of_fadeCompletes due.1 due.2, complete_eq target]
  case execute =>
    have named : (s.flipEventAt g pins == .executes || s.flipEventAt g pins == .forced) = true ↔ executes := by
      rw [Bool.or_eq_true, beq_iff_eq, beq_iff_eq, event, flipStage_executes_iff, isOverdue, isReady, executesMeaning]
      rfl
    obtain ⟨whole, idle⟩ := next_frameIf named pins released
    refine ⟨fun due => ⟨whole due, ?_⟩, idle⟩
    have stage : ((s.beforeGroups pins).flipped g).1 = s.groups[g].execute := by
      rw [flipped_beforeGroups]
      refine flipStage_of_executes ?_
      rw [isOverdue, isReady]
      exact executesMeaning.mp due
    obtain ⟨atOnce, fades⟩ := takeFrame_executed stage
    refine ⟨atOnce, fun length => ?_⟩
    obtain ⟨⟨flip, step, last⟩, shown⟩ := fades length
    exact ⟨flip, step, last, shown⟩
  case limit =>
    have limit : ((s.beforeGroups pins).flipped g).1.limitApplies = true ↔ due := by
      rw [flipped_beforeGroups, limitApplies_flipStage, limitApplies_iff, limitMeaning]
    obtain ⟨whole, idle⟩ := next_frameIf limit pins released
    exact ⟨fun applies => ⟨whole applies, takeFrame_ended (limit.mpr applies)⟩, idle⟩

end Sys2Proof.Machine
end

section
/-! PROOFS. O48: the groups, the pictures, the fit outcomes and the notices at a frame start (R34, R54 to R56, R67 to R70, R89). -/

namespace Sys2Proof.Machine

/-! ## Line-hold sets and flip requests of the lines that change (R67, R69, R70) -/

/-- R67, R69, R97: the line-hold set and the disregarded set of a group after the changed lines have landed. -/
theorem relineSets_changed (levels : LineSet) (lines : Vector Line 8) (g : Fin 4) (x : Group) (i : Fin 8) :
    ((x.relineSets (changedLines levels lines) (holdingLines (sampledLines levels lines) g)).lineHold.getLsbD i.val =
        if lines[i].changes (levels.getLsbD i.val) = true then
          (sampledLines levels lines)[i].inForce && decide ((sampledLines levels lines)[i].function = .groupHold) &&
            (sampledLines levels lines)[i].groups.getLsbD g.val
        else x.lineHold.getLsbD i.val) ∧
      (x.relineSets (changedLines levels lines) (holdingLines (sampledLines levels lines) g)).disregarded.getLsbD i.val =
        (x.disregarded.getLsbD i.val && !lines[i].changes (levels.getLsbD i.val)) := by
  have holding := holdingLines_getLsbD (sampledLines levels lines) g i
  simp only [Group.relineSets, BitVec.getLsbD_or, BitVec.getLsbD_and, BitVec.getLsbD_not, i.isLt, decide_true, Bool.true_and,
    changedLines_getLsbD, holding]
  refine ⟨?_, trivial⟩
  cases lines[i].changes (levels.getLsbD i.val)
  · simp
  · simp only [Bool.not_true, Bool.and_false, Bool.false_or, Bool.and_true, if_true]
    rfl

/-- R70: a GROUP_FLIP line requests a flip when its debounced change brings it into force. -/
theorem flipEdge_eq (level : Bool) (l : Line) :
    l.flipEdge level = (l.changes level && decide (l.function = .groupFlip) && (l.sampled level).inForce) := by
  rw [Line.flipEdge, Bool.and_right_comm]
  rfl

/-! ## The pictures (R54 to R56, R101) -/

theorem pictureOf_capture {s : State} {g : Fin 4} (draws : (s.flipped g).1.drawsCapture = true) {v : FrameView}
    (capture : (s.flipped g).1.capture = some v) : s.pictureOf g = .single v := by
  rw [State.pictureOf, if_pos draws, capture]
  rfl

theorem pictureOf_live {s : State} {g : Fin 4} (live : (s.flipped g).1.drawsCapture = false) :
    s.pictureOf g = livePicture s (s.flipped g).1 := by
  simp [State.pictureOf, live]

theorem livePicture_single {g : Group} (still : g.flip ≠ .fading) (s : State) :
    livePicture s g = .single (frameView s g.shown) := if_neg still

theorem livePicture_fading {g : Group} {b : Bank} (fading : g.flip = .fading) (target : g.target = some b) (s : State) :
    livePicture s g = .fading (frameView s g.shown) (frameView s b) g.fadeStep g.fadeLength := by
  rw [livePicture, if_pos fading, target]
  rfl

/-! ## The fit outcomes (R34, R35) -/

theorem recordedBank_still {g : Group} (still : g.flip ≠ .fading) : g.recordedBank = g.shown := if_neg still

theorem recordedBank_fading {g : Group} {b : Bank} (fading : g.flip = .fading) (target : g.target = some b) :
    g.recordedBank = b := by
  rw [Group.recordedBank, if_pos fading, target]
  rfl

theorem fitAfter_capture {s : State} {g : Fin 4} (draws : (s.flipped g).1.drawsCapture = true) (t : Slot) :
    s.fitAfter t g = t.fit[g] := if_pos draws

theorem fitAfter_live {s : State} {g : Fin 4} (live : (s.flipped g).1.drawsCapture = false) (t : Slot) :
    s.fitAfter t g = viewOutcome (slotView s (s.flipped g).1.recordedBank t) := by
  simp [State.fitAfter, live]

/-- A VACANT slot with its reset values has no outcome to record. -/
theorem fitAfter_reset (s : State) (g : Fin 4) : s.fitAfter Slot.reset g = .nothing := by
  unfold State.fitAfter
  split
  · simp [Slot.reset]
  · rfl

/-- R34: a slot with the fit outcomes of a frame start. -/
def State.refit (s : State) (t : Slot) : Slot := { t with fit := tab (fun g => s.fitAfter t g) }

@[simp] theorem refit_fit (s : State) (t : Slot) (g : Fin 4) : (s.refit t).fit[g] = s.fitAfter t g := by
  rw [State.refit, Fin.getElem_fin, getElem_tab]

@[simp] theorem beforeGroups_slot (pins : FramePins) (s : State) (n : Nat) : (s.beforeGroups pins).slot n = s.slot n := by
  rw [State.slot, State.slot, beforeGroups_slots]

theorem refit_reset (s : State) : s.refit Slot.reset = Slot.reset := by
  have fit : tab (fun g => s.fitAfter Slot.reset g) = Slot.reset.fit :=
    vector_ext_fin fun g => by rw [Fin.getElem_fin, getElem_tab, fitAfter_reset]; simp [Slot.reset]
  rw [State.refit, fit]

/-- R34: every slot after a frame start. -/
theorem takeFrame_slot (pins : FramePins) {s : State} (rising : Table.Rising s.slots) (n : Nat) :
    (s.takeFrame pins).slot n = (s.beforeGroups pins).refit (s.slot n) := by
  rw [State.slot, takeFrame_slots]
  exact find?_mapSlots rising (fun _ t => (s.beforeGroups pins).refit t) (fun _ => refit_reset _) n

theorem becomesFault_iff (before after : FitOutcome) :
    becomesFault before after = true ↔ (after = .dashed ∨ after = .blank) ∧ after ≠ before := by
  simp only [becomesFault, Bool.and_eq_true, Bool.or_eq_true, beq_iff_eq, bne_iff_ne, ne_comm]

/-- R34: the slots that raise FIT_FAULT. -/
theorem mem_fitFaults {s : State} (rising : Table.Rising s.slots) (n : Nat) :
    n ∈ s.fitFaults ↔ ∃ g : Fin 4, becomesFault (s.slot n).fit[g] (s.fitAfter (s.slot n) g) = true := by
  simp only [State.fitFaults, List.mem_map, List.mem_filter, List.any_eq_true, List.mem_finRange, true_and]
  constructor
  · rintro ⟨e, ⟨listed, faulty⟩, rfl⟩
    rwa [State.slot, (Table.find?_eq_some_iff rising).mpr listed]
  · rintro ⟨g, faulty⟩
    cases found : Table.find? s.slots n with
    | some t =>
      rw [State.slot, found] at faulty
      exact ⟨(n, t), ⟨Table.find?_some_mem found, g, faulty⟩, rfl⟩
    | none =>
      have reset : s.slot n = Slot.reset := by rw [State.slot, found]; rfl
      rw [reset, fitAfter_reset] at faulty
      simp [becomesFault] at faulty

/-! ## The notices (R35, R78, R90, R96, R104, R137, R147) -/

/-- R147, R152: FEED_DARK at the coast limit. -/
theorem feedFrame_notices (s : State) :
    s.feedFrame.notices =
      (if s.feed.state = .coasting ∧ s.feed.coastLimit < s.feed.coast + 1 then State.raise .feedDark (fun _ => 0) s
        else s).notices := by
  unfold State.feedFrame
  split
  · rename_i ends
    rw [if_pos (s.feed.coastEnds_iff.mp ends)]
    exact State.raise_notices_congr _ _ rfl
  · rename_i goesOn
    rw [if_neg (mt s.feed.coastEnds_iff.mpr goesOn)]

/-- R137, R147: the notices of the feed and of the outputs, before the groups do their work. -/
theorem linked_notices (pins : FramePins) (s : State) :
    (s.beforeGroups pins).notices =
      (State.raiseSet .panelLink
        (fourWord (fun k => decide
          ((s.outputs[k].atFrame (pins.presence.getLsbD k.val)).link ≠ s.outputs[k].link)))
        (if s.feed.state = .coasting ∧ s.feed.coastLimit < s.feed.coast + 1 then State.raise .feedDark (fun _ => 0) s
          else s)).notices := by
  have changed : ∀ a b : LinkState, (a != b) = decide (a ≠ b) := by simp [bne, beq_eq_decide]
  simp only [beforeGroups_notices, changed]
  exact State.raiseSet_notices_congr _ _ (feedFrame_notices s)

/-- The notices that the groups raise depend on the notices before them alone. -/
theorem groupNotices_congr (faults : List Nat) (limits abandoned done : Word) {s t : State} (same : s.notices = t.notices) :
    (State.raiseFaults faults (State.raiseSet .holdLimit limits (State.raiseSet .flipAbandoned abandoned
        (State.raiseSet .flipDone done s)))).notices =
      (State.raiseFaults faults (State.raiseSet .holdLimit limits (State.raiseSet .flipAbandoned abandoned
        (State.raiseSet .flipDone done t)))).notices :=
  raiseFaults_notices_congr _
    (State.raiseSet_notices_congr _ _ (State.raiseSet_notices_congr _ _ (State.raiseSet_notices_congr _ _ same)))

/-- Settles O48: each group by the stages and the lines that land, its picture, the slots' fit outcomes and the notices. -/
theorem groupsAtFrameStart : Obligations.GroupsAtFrameStart := by
  refine ⟨fun s b rising => ⟨rising_frameView rising b, find?_frameView rising b⟩,
    fun g => ⟨drawsCapture_iff g, limitApplies_iff g⟩, fun pins s released rising => ?_⟩
  have stage : ∀ g, (s.beforeGroups pins).flipped g = s.groups[g].flipStage (groupReady (s.beforeGroups pins).outputs g) :=
    flipped_beforeGroups pins s
  refine ⟨s.takeFrame pins, groupReady (s.beforeGroups pins).outputs, fun i => s.lines[i].changes (pins.lines.getLsbD i.val),
    (s.beforeGroups pins).flipped, (s.beforeGroups pins).groupAfter,
    fun g => ((s.beforeGroups pins).groupAfter g).reline (changedLines pins.lines s.lines)
      (holdingLines (sampledLines pins.lines s.lines) g), _,
    exec_frameStart released, groupReady_beforeGroups pins s, stage, fun g => ?after, fun i => Line.changes_iff _ _,
    fun g => ⟨_, _, fun i => ?sets, rfl⟩, rfl, fun g => ?groups, fun g => ⟨fun draws v capture => ?captured, fun live => ?live⟩,
    rfl, fun v => ⟨fun undrawn => ?unpriced, fun p price => ?priced⟩, fun n => ⟨_, takeFrame_slot pins rising n, fun g => ?fit⟩,
    (s.beforeGroups pins).fitFaults, fun n => ?faults, ?notices⟩
  case after => rw [State.groupAfter, beforeGroups_frameView]
  case sets =>
    rw [takeFrame_sampledLines]
    exact relineSets_changed pins.lines s.lines g _ i
  case groups =>
    rw [takeFrame_groups]
    simp only [flipEdge_eq, takeFrame_lines]
  case captured => rw [takeFrame_pictures, pictureOf_capture draws capture]
  case live =>
    rw [takeFrame_pictures, pictureOf_live live]
    refine ⟨fun still => ?_, fun b fading target => ?_⟩
    · rw [livePicture_single still, beforeGroups_frameView]
    · rw [livePicture_fading fading target, beforeGroups_frameView, beforeGroups_frameView]
  case unpriced => simp only [viewOutcome, undrawn]
  case priced => simp only [viewOutcome, price]
  case fit =>
    have recorded : (tab (fun g => (s.beforeGroups pins).fitAfter (s.slot n) g))[g] =
        (s.beforeGroups pins).fitAfter (s.slot n) g := refit_fit _ _ g
    rw [recorded]
    refine ⟨fun draws => fitAfter_capture draws _, fun live => ?_⟩
    rw [fitAfter_live live, beforeGroups_slotView]
    exact ⟨fun still => by rw [recordedBank_still still], fun b fading target => by rw [recordedBank_fading fading target]⟩
  case faults =>
    rw [mem_fitFaults (by rwa [beforeGroups_slots])]
    refine exists_congr fun g => ?_
    rw [takeFrame_slot pins rising, refit_fit, beforeGroups_slot, becomesFault_iff]
  case notices =>
    have counted := State.countAvail_notices_congr
      (s.items.countP (fun e => e.2.notify && e.2.mergedSoldOut s.lines != e.2.mergedSoldOut (s.takeFrame pins).lines))
      ((groupsFrame_notices (s.beforeGroups pins)).trans (groupNotices_congr _ _ _ _ (linked_notices pins s)))
    rw [takeFrame_notices, availChanges_eq, ← takeFrame_sampledLines]
    exact counted

end Sys2Proof.Machine
end

section
/-! PROOFS. O35 to O38: the daypart clock, its resync and the schedule (R108 to R120). -/

namespace Sys2Proof.Machine

/-! ## Resync: the distance of an entry and the parts of a group (R112, R113) -/

/-- R112: within the week an occurrence still to come lies one week further back. -/
theorem backDistance_eq {now occurrence : Nat} (hn : now < 604800) (ho : occurrence < 604800) :
    backDistance now occurrence = if occurrence ≤ now then now - occurrence else now + 604800 - occurrence := by
  unfold backDistance Config.weekSeconds
  split <;> omega

theorem backDistance_lt (now occurrence : Nat) : backDistance now occurrence < Config.weekSeconds :=
  Nat.mod_lt _ (by decide)

/-- A set that is not empty has a member. -/
theorem exists_getLsbD_of_ne_zero {w : Nat} {x : BitVec w} (h : x ≠ 0) : ∃ i, i < w ∧ x.getLsbD i = true := by
  obtain ⟨i, low, bit, -⟩ := (and_ne_zero_iff x x).mp (by rwa [BitVec.and_self])
  exact ⟨i, low, bit⟩

/-- R112: an entry lies no further back than any of its days. -/
theorem Entry.distance_le (now : Nat) (e : Entry) {d : Nat} (low : d < 7) (named : e.days.getLsbD d = true) :
    e.distance now ≤ backDistance now (instant d e.time) :=
  (foldl_min_spec now e (List.range 7) Config.weekSeconds).2.2 d (List.mem_range.mpr low) named

/-- R112: an entry with a day lies as far back as one of its days: the whole week is no day's distance. -/
theorem Entry.exists_distance_eq (now : Nat) {e : Entry} (days : e.days ≠ 0) :
    ∃ d, d < 7 ∧ e.days.getLsbD d = true ∧ e.distance now = backDistance now (instant d e.time) := by
  obtain ⟨d, low, named⟩ := exists_getLsbD_of_ne_zero days
  have below : e.distance now < Config.weekSeconds := (e.distance_le now low named).trans_lt (backDistance_lt now _)
  rcases (foldl_min_spec now e (List.range 7) Config.weekSeconds).1 with whole | ⟨best, mem, bit, eq⟩
  · exact absurd whole below.ne
  · exact ⟨best, List.mem_range.mp mem, bit, eq⟩

/-- R112: the entry that a resync at this clock chooses for a group. -/
def Clock.choice (c : Clock) (schedule : List (Nat × Entry)) (g : Fin 4) : Option (Nat × Entry) :=
  chooseEntry (instant c.day c.second) g schedule

/-- R113: the state and reply of a resync. -/
theorem settle_resync (s : State) (c : Clock) :
    (resync { s.countTaken with clock := c }).settle 0x60 =
      ({ s with clock := c, groups := tab (fun g => resyncGroup (c.choice s.schedule g) s.groups[g]) } : State).replied 0x60
        .done ((List.finRange 4).flatMap (fun g => resyncBody (c.choice s.schedule g) s.groups[g])) := rfl

/-! ## CLOCK SET (R111) -/

theorem exec_clockSet {s : State} (taken : s.Takes) (b : List Byte) :
    exec (.clockSet b) s = .next ((clockSet b s.countTaken).settle 0x60) := congrArg Host.Outcome.next (sendCommand_takes taken)

theorem clockSet_badLength {b : List Byte} (full : b.length ≠ 0) (length : b.length ≠ 5) (s : State) :
    clockSet b s = .refuse s .badLength := by
  rw [clockSet, if_neg full, if_pos length]

theorem clockSet_badField {b : List Byte} (length : b.length = 5) (out : 6 < u8 b 0 ∨ 86399 < u32 b 1) (s : State) :
    clockSet b s = .refuse s .badField := by
  have range : 7 ≤ u8 b 0 ∨ Config.daySeconds ≤ u32 b 1 := out
  simp [clockSet, length, range]

theorem clockSet_wrongState {b : List Byte} (length : b.length = 0) {s : State} (unset : s.clock.running = false) :
    clockSet b s = .refuse s .wrongState := by
  simp [clockSet, length, unset]

/-- R111: a resync from the clock kept, or from the clock loaded. -/
theorem clockSet_resyncs {b : List Byte} {s : State} {c : Clock}
    (h : (b.length = 0 ∧ s.clock.running = true ∧ c = s.clock) ∨
      (b.length = 5 ∧ u8 b 0 ≤ 6 ∧ u32 b 1 ≤ 86399 ∧ c = { running := true, day := u8 b 0, second := u32 b 1 })) :
    clockSet b s = resync { s with clock := c } := by
  rcases h with ⟨length, running, rfl⟩ | ⟨length, day, second, rfl⟩
  · simp [clockSet, length, running]
  · have range : ¬ (7 ≤ u8 b 0 ∨ Config.daySeconds ≤ u32 b 1) := by
      unfold Config.daySeconds
      omega
    rw [clockSet, if_neg (by omega), if_neg (not_not.mpr length), if_neg range]

/-- Settles O35: the distances of R112, the refusals, then the resync group by group through the entry chosen for it. -/
theorem clockSetResyncs : Obligations.ClockSetResyncs := by
  refine ⟨fun now occurrence => backDistance_eq, fun now e _ _ days =>
    ⟨e.exists_distance_eq now days, fun d => e.distance_le now⟩, fun b s taken => ?_⟩
  rw [exec_clockSet taken]
  refine ⟨fun full length => ?_, fun length out => ?_, fun length unset => ?_, fun c h => ?_⟩
  · rw [clockSet_badLength full length, settle_refuse]
  · rw [clockSet_badField length out, settle_refuse]
  · rw [clockSet_wrongState (s := s.countTaken) length unset, settle_refuse]
  · refine ⟨c.choice s.schedule, tab (fun g => resyncGroup (c.choice s.schedule g) s.groups[g]),
      fun g => resyncBody (c.choice s.schedule g) s.groups[g], ?_, fun g => ?_⟩
    · rw [clockSet_resyncs (s := s.countTaken) h, settle_resync, flatMap_four]
    · obtain ⟨unnamed, nearest⟩ := chooseEntry_spec (instant c.day c.second) g s.schedule
      refine ⟨fun uncovered => ⟨unnamed uncovered, ?_, ?_⟩, fun n e chosen => ?_⟩
      · rw [Fin.getElem_fin, getElem_tab, uncovered]
        rfl
      · exact congrArg (resyncBody · s.groups[g]) uncovered
      · obtain ⟨mem, named, least⟩ := nearest (n, e) chosen
        refine ⟨mem, named, least, ?_, ?_⟩
        · rw [Fin.getElem_fin, getElem_tab, chosen]
          rfl
        · exact congrArg (resyncBody · s.groups[g]) chosen

/-! ## CLOCK GET (R115) -/

theorem exec_clockGet {s : State} (taken : s.Takes) (b : List Byte) :
    exec (.clockGet b) s = .next ((clockGet b s.countTaken).settle 0x61) := congrArg Host.Outcome.next (sendCommand_takes taken)

theorem clockGet_badLength {b : List Byte} (length : b.length ≠ 0) (s : State) : clockGet b s = .refuse s .badLength :=
  if_pos length

theorem clockGet_answers {b : List Byte} (length : b.length = 0) (s : State) :
    clockGet b s =
      .done s ([if s.clock.running then 1 else 0, BitVec.ofNat 8 s.clock.day] ++ put32 s.clock.second) := by
  simp [clockGet, length, clockBody, putFlag_eq]

/-! ## SCHEDULE DROP and SCHEDULE GET (R119, R120) -/

theorem exec_scheduleDrop {s : State} (taken : s.Takes) (b : List Byte) :
    exec (.scheduleDrop b) s = .next ((scheduleDrop b s.countTaken).settle 0x63) :=
  congrArg Host.Outcome.next (sendCommand_takes taken)

theorem exec_scheduleGet {s : State} (taken : s.Takes) (b : List Byte) :
    exec (.scheduleGet b) s = .next ((scheduleGet b s.countTaken).settle 0x64) :=
  congrArg Host.Outcome.next (sendCommand_takes taken)

theorem scheduleDrop_badLength {b : List Byte} (length : b.length ≠ 1) (s : State) :
    scheduleDrop b s = .refuse s .badLength := if_pos length

theorem scheduleGet_badLength {b : List Byte} (length : b.length ≠ 1) (s : State) :
    scheduleGet b s = .refuse s .badLength := if_pos length

theorem scheduleDrop_badField {b : List Byte} (length : b.length = 1) (out : 31 < u8 b 0) (s : State) :
    scheduleDrop b s = .refuse s .badField := by
  rw [scheduleDrop, if_neg (not_not.mpr length), if_pos (Nat.succ_le_of_lt out)]

theorem scheduleGet_badField {b : List Byte} (length : b.length = 1) (out : 31 < u8 b 0) (s : State) :
    scheduleGet b s = .refuse s .badField := by
  rw [scheduleGet, if_neg (not_not.mpr length), if_pos (Nat.succ_le_of_lt out)]

section
variable {b : List Byte} {s : State} {e : Entry} (length : b.length = 1) (number : u8 b 0 ≤ 31)
include length number

theorem scheduleDrop_noEntry (free : Table.find? s.schedule (u8 b 0) = none) : scheduleDrop b s = .refuse s .noEntry := by
  simp [scheduleDrop, length, Nat.lt_succ_of_le number, free]

theorem scheduleGet_noEntry (free : Table.find? s.schedule (u8 b 0) = none) : scheduleGet b s = .refuse s .noEntry := by
  simp [scheduleGet, length, Nat.lt_succ_of_le number, free]

theorem scheduleDrop_found (found : Table.find? s.schedule (u8 b 0) = some e) :
    scheduleDrop b s =
      .done { s with schedule := Table.erase s.schedule (u8 b 0) }
        [BitVec.ofNat 8 (Table.erase s.schedule (u8 b 0)).length] := by
  simp [scheduleDrop, length, Nat.lt_succ_of_le number, found]

theorem scheduleGet_found (found : Table.find? s.schedule (u8 b 0) = some e) :
    scheduleGet b s = .done s (entryBody (u8 b 0) e) := by
  simp [scheduleGet, length, Nat.lt_succ_of_le number, found]

end

/-- R120: the reply of SCHEDULE GET, byte by byte. -/
theorem entryBody_eq (n : Nat) (e : Entry) :
    entryBody n e =
      [BitVec.ofNat 8 n] ++ put32 e.time ++
        [BitVec.ofNat 8 e.days.toNat, BitVec.ofNat 8 e.groups.toNat, BitVec.ofNat 8 e.target.code] := by
  simp [entryBody]

/-- Settles O36: the clock read, then the refusals of both schedule commands, the entry freed and the entry read. -/
theorem clockGetScheduleDropAndGet : Obligations.ClockGetScheduleDropAndGet := by
  intro b s taken
  rw [exec_clockGet taken, exec_scheduleDrop taken, exec_scheduleGet taken]
  refine ⟨fun length => ?_, fun length => ?_, fun length => ?_, fun length out => ?_, fun length number free => ?_,
    fun length number e found => ⟨fun rising => ?_, ?_⟩⟩
  · rw [clockGet_badLength length, settle_refuse]
  · rw [clockGet_answers length, settle_done]
    rfl
  · simp only [scheduleDrop_badLength length, scheduleGet_badLength length, settle_refuse, and_self]
  · simp only [scheduleDrop_badField length out, scheduleGet_badField length out, settle_refuse, and_self]
  · rw [scheduleDrop_noEntry (s := s.countTaken) length number free, scheduleGet_noEntry (s := s.countTaken) length number free]
    exact ⟨rfl, rfl⟩
  · refine ⟨Table.erase s.schedule (u8 b 0), Table.find?_erase_same _ _, fun n other => Table.find?_erase_other _ other,
      Table.length_erase rising found, ?_⟩
    rw [scheduleDrop_found (s := s.countTaken) length number found]
    rfl
  · rw [scheduleGet_found (s := s.countTaken) length number found, settle_done, entryBody_eq]

/-! ## SCHEDULE PUT (R117, R118) -/

theorem exec_schedulePut {s : State} (taken : s.Takes) (b : List Byte) :
    exec (.schedulePut b) s = .next ((schedulePut b s.countTaken).settle 0x62) :=
  congrArg Host.Outcome.next (sendCommand_takes taken)

/-- R117: the field checks. -/
theorem scheduleFieldsGood_iff (b : List Byte) :
    scheduleFieldsGood b = true ↔
      u8 b 0 ≤ 31 ∧ u32 b 1 ≤ 86399 ∧ 1 ≤ u8 b 5 ∧ u8 b 5 < 128 ∧ 1 ≤ u8 b 6 ∧ u8 b 6 < 16 ∧ u8 b 7 ≤ 1 := by
  simp only [scheduleFieldsGood, Config.daySeconds, decide_eq_true_eq]
  omega

theorem schedulePut_badLength {b : List Byte} (length : b.length ≠ 8) (s : State) :
    schedulePut b s = .refuse s .badLength := if_pos length

theorem schedulePut_badField {b : List Byte} (length : b.length = 8) (bad : scheduleFieldsGood b = false) (s : State) :
    schedulePut b s = .refuse s .badField := by
  simp [schedulePut, length, bad]

theorem schedulePut_conflict {b : List Byte} (length : b.length = 8) (good : scheduleFieldsGood b = true) {s : State} {n : Nat}
    (clash : conflictWith (u8 b 0) (readEntry b) s.schedule = some n) :
    schedulePut b s = .refuseWith s .conflict [BitVec.ofNat 8 n] := by
  simp [schedulePut, length, good, clash]

theorem schedulePut_writes {b : List Byte} (length : b.length = 8) (good : scheduleFieldsGood b = true) {s : State}
    (clear : conflictWith (u8 b 0) (readEntry b) s.schedule = none) :
    schedulePut b s =
      .done { s with schedule := Table.insert s.schedule (u8 b 0) (readEntry b) }
        [BitVec.ofNat 8 (u8 b 0), BitVec.ofNat 8 (Table.insert s.schedule (u8 b 0) (readEntry b)).length] := by
  simp [schedulePut, length, good, clear]

/-- R118: each field of the entry read from a SCHEDULE PUT body. -/
theorem readEntry_fields {b : List Byte} (days : u8 b 5 < 128) (groups : u8 b 6 < 16) (target : u8 b 7 < 2) :
    (readEntry b).time = u32 b 1 ∧ (readEntry b).days.toNat = u8 b 5 ∧ (readEntry b).groups.toNat = u8 b 6 ∧
      (readEntry b).target.code = u8 b 7 :=
  ⟨rfl, Nat.mod_eq_of_lt days, Nat.mod_eq_of_lt groups, code_bankOf target⟩

/-- R117: the in-use entry f, other than entry n, conflicts with the entry e to be written under n. -/
def Clashes (schedule : List (Nat × Entry)) (n : Nat) (e : Entry) (f : Nat × Entry) : Prop :=
  f ∈ schedule ∧ f.1 ≠ n ∧ f.2.conflicts e = true

theorem clashes_iff (schedule : List (Nat × Entry)) (n : Nat) (e : Entry) (f : Nat × Entry) :
    Clashes schedule n e f ↔
      f ∈ schedule ∧ f.1 ≠ n ∧ f.2.time = e.time ∧
        (∃ d, d < 7 ∧ f.2.days.getLsbD d = true ∧ e.days.getLsbD d = true) ∧
        ∃ g, g < 4 ∧ f.2.groups.getLsbD g = true ∧ e.groups.getLsbD g = true := by
  rw [Clashes, conflicts_iff]

/-- R117: the check of SCHEDULE PUT passes when no entry clashes. -/
theorem conflictWith_eq_none {schedule : List (Nat × Entry)} {n : Nat} {e : Entry}
    (clear : ∀ f, ¬ Clashes schedule n e f) : conflictWith n e schedule = none := by
  rw [conflictWith, Option.map_eq_none_iff, List.find?_eq_none]
  intro f mem
  simp only [Bool.and_eq_true, bne_iff_ne, not_and]
  exact fun other conflicts => clear f ⟨mem, other, (conflicts_comm f.2 e).trans conflicts⟩

/-- In a table with rising keys, the first entry that passes a test is the passing entry with the lowest key. -/
theorem Table.firstPassing_eq_least {α : Type} {t : List (Nat × α)} (rising : Table.Rising t) {p : Nat × α → Bool} {f : Nat × α}
    (mem : f ∈ t) (pass : p f = true) (least : ∀ h ∈ t, p h = true → f.1 ≤ h.1) : t.find? p = some f := by
  induction t with
  | nil => cases mem
  | cons a t ih =>
    obtain ⟨first, rest⟩ := List.pairwise_cons.mp rising
    rcases List.mem_cons.mp mem with rfl | later
    · exact List.find?_cons_of_pos pass
    · have skipped : ¬ p a = true := fun h => absurd (least a List.mem_cons_self h) (Nat.not_le.mpr (first f later))
      rw [List.find?_cons_of_neg skipped]
      exact ih rest later (fun h mem => least h (List.mem_cons_of_mem a mem))

/-- R117: the check answers the lowest entry that clashes. -/
theorem conflictWith_eq_least {schedule : List (Nat × Entry)} (rising : Table.Rising schedule) {n : Nat} {e : Entry}
    {f : Nat × Entry} (clash : Clashes schedule n e f) (least : ∀ h, Clashes schedule n e h → f.1 ≤ h.1) :
    conflictWith n e schedule = some f.1 := by
  obtain ⟨mem, other, conflicts⟩ := clash
  rw [conflictWith, Table.firstPassing_eq_least rising mem, Option.map_some]
  · simp [other, conflicts_comm e, conflicts]
  · intro h hmem pass
    simp only [Bool.and_eq_true, bne_iff_ne] at pass
    exact least h ⟨hmem, pass.1, (conflicts_comm h.2 e).trans pass.2⟩

/-- Settles O37: the refusals, the lowest entry that clashes, and the entry written where none does. -/
theorem schedulePutWrites : Obligations.SchedulePutWrites := by
  intro b s taken
  rw [exec_schedulePut taken]
  refine ⟨fun length => ?_, fun length out => ?_, fun length number time days days' groups groups' target rising => ?_⟩
  · rw [schedulePut_badLength length, settle_refuse]
  · have bad : scheduleFieldsGood b = false := by
      rw [Bool.eq_false_iff, ne_eq, scheduleFieldsGood_iff]
      omega
    rw [schedulePut_badField length bad, settle_refuse]
  · have good := (scheduleFieldsGood_iff b).mpr ⟨number, time, days, days', groups, groups', target⟩
    obtain ⟨time', daySet, groupSet, bank⟩ := readEntry_fields days' groups' (Nat.lt_succ_of_le target)
    refine ⟨readEntry b, Clashes s.schedule (u8 b 0) (readEntry b), time', daySet, groupSet, bank, clashes_iff _ _ _,
      fun f clash least => ?_, fun clear => ?_⟩
    · rw [schedulePut_conflict (s := s.countTaken) length good (conflictWith_eq_least rising clash least), settle_refuseWith]
    · refine ⟨Table.insert s.schedule (u8 b 0) (readEntry b), Table.find?_insert_same _ _ _,
        fun n other => Table.find?_insert_other _ _ other, Table.length_insert rising _ _, ?_⟩
      rw [schedulePut_writes (s := s.countTaken) length good (conflictWith_eq_none clear)]
      rfl

/-! ## The second tick (R108 to R110) -/

theorem exec_secondTick_idle {s : State} (idle : s.resetPin = true ∨ s.clock.running = false) :
    exec .secondTick s = .next s := by
  refine congrArg Host.Outcome.next (if_neg ?_)
  rcases idle with held | unset <;> simp [*]

theorem exec_secondTick_runs {s : State} (free : s.resetPin = false) (running : s.clock.running = true) :
    exec .secondTick s = .next s.tickClock := congrArg Host.Outcome.next (if_pos (by simp [free, running]))

/-- R108 to R110: what a second tick writes. -/
theorem tickClock_eq (s : State) :
    s.tickClock =
      { s with
        clock := s.clock.tick
        groups := fireEntries (firing s.clock.tick s.schedule) s.groups
        notices := (State.raiseSet .scheduleFired (entrySet (firing s.clock.tick s.schedule)) s).notices } := by
  have raised := State.raiseSet_notices_congr .scheduleFired (entrySet (firing s.clock.tick s.schedule)) (t := s)
    (s := { s with clock := s.clock.tick, groups := fireEntries (firing s.clock.tick s.schedule) s.groups }) rfl
  rw [State.tickClock, State.raiseSet_eq, raised]

theorem Clock.tick_running (c : Clock) : c.tick.running = c.running := by
  unfold Clock.tick
  split <;> rfl

theorem Clock.tick_within {c : Clock} (h : c.second < 86399) : c.tick = { c with second := c.second + 1 } :=
  if_pos (Nat.succ_lt_succ h)

theorem Clock.tick_midnight {c : Clock} (ok : c.Ok) (h : c.second = 86399) :
    c.tick = { c with second := 0, day := (c.day + 1) % 7 } := by
  obtain ⟨day, -⟩ := ok
  have wrap : (if c.day < 6 then c.day + 1 else 0) = (c.day + 1) % 7 := by
    split <;> omega
  rw [Clock.tick, if_neg (by simp [h]), wrap]

/-- R109: the entries that fire at a clock's day and second. -/
theorem mem_firing {c : Clock} {schedule : List (Nat × Entry)} {e : Nat × Entry} :
    e ∈ firing c schedule ↔ e ∈ schedule ∧ e.2.time = c.second ∧ e.2.days.getLsbD c.day = true := by
  simp [firing, Entry.firesAt]

/-- R109, R116: of the entries that fire, no two name the same group: they share the time and the day, so they would
conflict. -/
theorem firing_apart {schedule : List (Nat × Entry)} (ok : ScheduleOk schedule) (c : Clock) (g : Fin 4) :
    (firing c schedule).Pairwise
      (fun e f => ¬ (e.2.groups.getLsbD g.val = true ∧ f.2.groups.getLsbD g.val = true)) := by
  have clear : (firing c schedule).Pairwise (fun e f => e.2.conflicts f.2 = false) := ok.2.2.sublist List.filter_sublist
  refine clear.imp_of_mem (fun {e f} he hf none both => ?_)
  obtain ⟨-, timeE, dayE⟩ := mem_firing.mp he
  obtain ⟨-, timeF, dayF⟩ := mem_firing.mp hf
  have conflict : e.2.conflicts f.2 = true :=
    (conflicts_iff _ _).mpr ⟨timeE.trans timeF.symm, ⟨c.day, BitVec.lt_of_getLsbD dayE, dayE, dayF⟩, g.val, g.isLt, both⟩
  simp [none] at conflict

/-- R110: the members of the set of a list of entries. -/
theorem getLsbD_entrySet_iff (l : List (Nat × Entry)) {n : Nat} (hn : n < 32) :
    (entrySet l).getLsbD n = true ↔ ∃ e, (n, e) ∈ l := by
  rw [entrySet, entrySet_getLsbD l n hn]
  simp

/-- Settles O38: what holds the clock, then the tick: the clock, the entries that fire, their requests and their notice. -/
theorem secondTickFires : Obligations.SecondTickFires := by
  refine fun s => ⟨exec_secondTick_idle, fun free running clock schedule => ?_⟩
  refine ⟨s.tickClock, entrySet (firing s.clock.tick s.schedule), (· ∈ firing s.clock.tick s.schedule),
    exec_secondTick_runs free running, ?_⟩
  rw [tickClock_eq]
  refine ⟨rfl, (Clock.tick_running _).trans running, fun within => ?_, fun midnight => ?_, fun e => mem_firing,
    fun g => ⟨fireEntries_none _ _ _, fun e fires named => ?_⟩, fun n => getLsbD_entrySet_iff _, rfl⟩
  · rw [Clock.tick_within within]
    exact ⟨rfl, rfl⟩
  · rw [Clock.tick_midnight clock midnight]
    exact ⟨rfl, rfl⟩
  · exact fireEntries_one _ _ _ e fires named (firing_apart schedule _ g)

end Sys2Proof.Machine
end

section
/-! PROOFS. O46: an output's link work at a frame start, case by case, and the frame it then begins (R121, R125, R130 to R135, R138,
R172). -/

namespace Sys2Proof.Machine

/-! ## A failure (R133) -/

theorem Output.fail_again {o : Output} (few : o.failures + 1 < 8) :
    o.fail = ({ o with failures := o.failures + 1 } : Output).toOffer := if_neg (not_le.mpr few)

theorem Output.fail_last {o : Output} (last : 8 ≤ o.failures + 1) :
    o.fail = { o with failures := o.failures + 1, link := .failed } := if_pos last

/-! ## The link work by link state (R130 to R135) -/

theorem Output.linkFrame_idle {o : Output} (idle : o.link = .off ∨ o.link = .failed) (present : Bool) :
    o.linkFrame present = o := by
  rcases idle with off | failed
  · simp [Output.linkFrame, off]
  · simp [Output.linkFrame, failed]

theorem Output.linkFrame_offer {o : Output} (offer : o.link = .offer) (present : Bool) :
    o.linkFrame present = o.offerFrame present := by
  simp [Output.linkFrame, offer]

theorem Output.linkFrame_matching {o : Output} (matching : o.link = .matching) (present : Bool) :
    o.linkFrame present = o.matchFrame present := by
  simp [Output.linkFrame, matching]

theorem Output.linkFrame_linked {o : Output} (linked : o.link = .up ∨ o.link = .misfit) (present : Bool) :
    o.linkFrame present = o.upFrame present := by
  rcases linked with up | misfit
  · simp [Output.linkFrame, up]
  · simp [Output.linkFrame, misfit]

theorem Output.linkFrame_plain {o : Output} (plain : o.link = .plain) (present : Bool) :
    o.linkFrame present = if present then o else o.toOffer := by
  simp [Output.linkFrame, plain]

/-! ### OFFER (R131) -/

theorem Output.offerFrame_absent (o : Output) :
    o.offerFrame false = { o with silence := 0, run := 0, runAbility := none } := rfl

theorem Output.offerFrame_waits {o : Output} (early : o.silence + 1 < 60) :
    o.offerFrame true = { o with silence := o.silence + 1 } := if_neg (not_le.mpr early)

theorem Output.offerFrame_silent {o : Output} (silent : 60 ≤ o.silence + 1) :
    o.offerFrame true = { o with silence := o.silence + 1, link := .plain } := if_pos silent

/-! ### MATCH (R132) -/

theorem Output.matchFrame_absent (o : Output) : o.matchFrame false = o.toOffer := rfl

theorem Output.matchFrame_waits {o : Output} (early : o.ackWait + 1 < 30) :
    o.matchFrame true = { o with ackWait := o.ackWait + 1 } := if_neg (not_le.mpr early)

theorem Output.matchFrame_fails {o : Output} (waited : 30 ≤ o.ackWait + 1) :
    o.matchFrame true = ({ o with ackWait := o.ackWait + 1 } : Output).fail := if_pos waited

/-! ### UP and MISFIT (R134) -/

theorem Output.upFrame_waits {o : Output} (early : o.silence + 1 < 10) :
    o.upFrame true = { o with silence := o.silence + 1 } := if_neg (not_le.mpr early)

theorem Output.upFrame_drops {present : Bool} {o : Output} (lost : present = false ∨ 10 ≤ o.silence + 1) :
    o.upFrame present = { o.toOffer with dropLatch := true } := by
  cases present with
  | false => rfl
  | true => exact if_pos (lost.resolve_left Bool.noConfusion)

/-! ## The frame begun (R125, R167, R172) -/

theorem Output.frame_disabled {o : Output} (disabled : o.enabled = false) : o.frame = none := by
  simp [Output.frame, disabled]

theorem Output.frame_misfit {o : Output} (enabled : o.enabled = true) (misfit : o.link = .misfit) {a : Ability}
    (matched : o.matched = some a) :
    o.frame =
      some { rasterWidth := a.width, rasterHeight := a.height, x := o.x, y := o.y, width := o.width, height := o.height
             group := o.group, standby := o.standby, margin := put16 o.width ++ put16 o.height ++ [1] } := by
  simp [Output.frame, Output.raster, Output.placed, offerWord, putFlag_eq, enabled, misfit, matched]

theorem Output.frame_window {o : Output} (enabled : o.enabled = true) (fits : o.link ≠ .misfit) :
    o.frame =
      some { rasterWidth := o.width, rasterHeight := o.height, x := o.x, y := o.y, width := o.width, height := o.height
             group := o.group, standby := o.standby
             margin :=
               put16 o.width ++ put16 o.height ++ [if o.link = .matching ∨ o.link = .up then 1 else 0] ++
                 (if o.link = .up then (o.down.take 4).flatten else []) } := by
  have ack : (o.link == .matching || o.link == .up || o.link == .misfit) = decide (o.link = .matching ∨ o.link = .up) := by
    cases h : o.link <;> simp_all
  by_cases up : o.link = .up
  · simp [Output.frame, Output.raster, Output.placed, offerWord, putFlag_eq, enabled, up]
  · simp [Output.frame, Output.raster, Output.placed, offerWord, putFlag_eq, enabled, fits, up]

/-- Settles O46: the link work of each link state, then the frame of an enabled and of a disabled output. -/
theorem outputsAtFrameStart : Obligations.OutputsAtFrameStart := by
  rintro present o n rfl
  refine ⟨fun idle => ?_, fun offer => ?offer, fun matching => ?matching, fun linked => ?linked, fun plain => ?plain,
    Output.frame_disabled, fun enabled misfit _ => Output.frame_misfit enabled misfit, Output.frame_window,
    fun up => if_pos up, fun other => if_neg other⟩
  · rw [Output.atFrame, Output.linkFrame_idle idle]
  case offer =>
    rw [Output.atFrame, Output.linkFrame_offer offer]
    refine ⟨?_, ?_, ?_⟩
    · rintro rfl
      rw [Output.offerFrame_absent]
    · rintro rfl early
      rw [Output.offerFrame_waits early]
    · rintro rfl silent
      rw [Output.offerFrame_silent silent]
  case matching =>
    rw [Output.atFrame, Output.linkFrame_matching matching]
    refine ⟨?_, ?_, ?_⟩
    · rintro rfl
      rfl
    · rintro rfl early
      rw [Output.matchFrame_waits early]
    · rintro rfl waited
      rw [Output.matchFrame_fails waited]
      refine ⟨fun few => ?_, fun last => ?_⟩
      · rw [Output.fail_again (o := { o with ackWait := o.ackWait + 1 }) few]
        rfl
      · rw [Output.fail_last (o := { o with ackWait := o.ackWait + 1 }) last]
  case linked =>
    rw [Output.atFrame, Output.linkFrame_linked linked]
    refine ⟨?_, fun lost => ?_⟩
    · rintro rfl early
      rw [Output.upFrame_waits early]
    · rw [Output.upFrame_drops lost]
      rfl
  case plain =>
    rw [Output.atFrame, Output.linkFrame_plain plain]
    refine ⟨?_, ?_⟩ <;> rintro rfl <;> rfl

end Sys2Proof.Machine
end

section
/-! PROOFS. O39 and O40: OUTPUT PUT, OUTPUT GET and PANEL RELINK (R122 to R124, R137, R139). -/

namespace Sys2Proof.Machine

/-! ## Outputs written under the count of commands (R137, R159) -/

/-- R137: an output written, and the reply of the command that writes it. -/
theorem settle_putOutput (code : Byte) (k : Fin 4) (o : Output) (body : List Byte) (s : State) :
    (Answer.done (s.countTaken.putOutput k o) body).settle code =
      ({ s with
          outputs := s.outputs.set k o
          notices :=
            (if o.link = s.outputs[k].link then s
             else State.raise .panelLink (addMembers (BitVec.ofNat 32 (2 ^ k.val))) s).notices } : State).replied
        code .done body := by
  by_cases same : o.link = s.outputs[k].link
  · have written : s.countTaken.putOutput k o = { s.countTaken with outputs := s.outputs.set k o } := if_pos same
    rw [written, if_pos same]
    rfl
  · have written : s.countTaken.putOutput k o =
        State.raise .panelLink (addMembers (member k.val)) { s.countTaken with outputs := s.outputs.set k o } := if_neg same
    have raised := State.raise_notices_congr .panelLink (addMembers (member k.val))
      (s := { s.countTaken with outputs := s.outputs.set k o }) (t := s) rfl
    rw [written, if_neg same, State.raise_eq, raised]
    rfl

/-- R137: every output changed, and PANEL_LINK with those whose link state changes. -/
theorem changeOutputs_eq (f : Fin 4 → Output → Output) (s : State) :
    s.changeOutputs f =
      { s with
        outputs := tab (fun k => f k s.outputs[k])
        notices :=
          (State.raiseSet .panelLink (fourWord (fun k => (f k s.outputs[k]).link != s.outputs[k].link)) s).notices } := by
  have raised := State.raiseSet_notices_congr .panelLink
    (fourWord (fun k => (f k s.outputs[k]).link != s.outputs[k].link))
    (s := { s with outputs := tab (fun k => f k s.outputs[k]) }) (t := s) rfl
  rw [State.changeOutputs, State.raiseSet_eq, raised]

/-! ## OUTPUT PUT (R122, R123) -/

theorem exec_outputPut {s : State} (taken : s.Takes) (b : List Byte) :
    exec (.outputPut b) s = .next ((outputPut b s.countTaken).settle 0x70) :=
  congrArg Host.Outcome.next (sendCommand_takes taken)

/-- R122: the field checks. -/
theorem outputFieldsGood_iff (b : List Byte) :
    outputFieldsGood b = true ↔
      u8 b 0 < 4 ∧ u8 b 1 < 2 ∧ u16 b 2 ≤ 7679 ∧ u16 b 4 ≤ 2159 ∧ 1 ≤ u16 b 6 ∧ u16 b 6 ≤ 3840 ∧ 1 ≤ u16 b 8 ∧
        u16 b 8 ≤ 2160 ∧ u16 b 2 + u16 b 6 ≤ 7680 ∧ u16 b 4 + u16 b 8 ≤ 2160 ∧ u8 b 10 < 4 ∧ u8 b 11 < 64 :=
  decide_eq_true_iff

theorem outputPut_badLength {b : List Byte} (length : b.length ≠ 12) (s : State) : outputPut b s = .refuse s .badLength :=
  if_pos length

theorem outputPut_badField {b : List Byte} (length : b.length = 12) (bad : outputFieldsGood b = false) (s : State) :
    outputPut b s = .refuse s .badField := by
  simp [outputPut, length, bad]

theorem outputPut_writes {b : List Byte} (length : b.length = 12) (good : outputFieldsGood b = true) {k : Fin 4}
    (number : u8 b 0 = k.val) (s : State) :
    outputPut b s =
      .done (s.putOutput k (s.outputs[k].rewritten b))
        [BitVec.ofNat 8 k.val, BitVec.ofNat 8 (s.outputs[k].rewritten b).link.code] := by
  obtain rfl : Fin.ofNat 4 (u8 b 0) = k := finOfNat_eq number
  rw [outputPut, if_neg (not_not.mpr length), good]
  rfl

/-- A card field: 0 is none, k + 1 is card k. -/
theorem cardOf_code (card : Option (Fin 63)) : cardOf ((card.map (·.val + 1)).getD 0) = card := by
  cases card with
  | none => rfl
  | some k => exact congrArg some (finOfNat_eq (Nat.add_sub_cancel k.val 1))

/-- R123: the five fields of the record are the values sent. -/
theorem recordOutput_eq {b : List Byte} {group : Fin 4} (g : u8 b 10 = group.val) {standby : Option (Fin 63)}
    (card : u8 b 11 = (standby.map (·.val + 1)).getD 0) (o : Output) :
    recordOutput b o =
      { o with
        enabled := decide (u8 b 1 = 1), x := u16 b 2, y := u16 b 4, width := u16 b 6, height := u16 b 8
        group := group, standby := standby } := by
  rw [recordOutput, finOfNat_eq g, card, cardOf_code]
  rfl

/-! ### The first case of R123 -/

theorem rewritten_disabled {b : List Byte} {o : Output} (disabled : (recordOutput b o).enabled = false) :
    o.rewritten b = { recordOutput b o with link := .off } := by
  by_cases off : o.link = .off
  · have closed : (u8 b 1 == 1) = false := disabled
    simp [Output.rewritten, recordOutput, off, closed]
  · exact if_pos ⟨off, disabled⟩

theorem rewritten_off {b : List Byte} {o : Output} (enabled : (recordOutput b o).enabled = true) (off : o.link = .off) :
    o.rewritten b = { (recordOutput b o).toOffer with failures := 0, matched := none } := by
  simp [Output.rewritten, enabled, off]

theorem rewritten_failed {b : List Byte} {o : Output} (enabled : (recordOutput b o).enabled = true)
    (failed : o.link = .failed) :
    o.rewritten b =
      if u16 b 6 ≠ o.width ∨ u16 b 8 ≠ o.height then { (recordOutput b o).toOffer with failures := 0 }
      else recordOutput b o := by
  simp only [Output.rewritten, enabled, failed, reduceCtorEq, and_false, false_and, and_true, true_and, if_false,
    Bool.true_eq_false]
  rfl

theorem rewritten_up {b : List Byte} {o : Output} (enabled : (recordOutput b o).enabled = true) (up : o.link = .up) :
    o.rewritten b =
      if (u16 b 6 ≠ o.width ∨ u16 b 8 ≠ o.height) ∧ o.matchesSize (u16 b 6) (u16 b 8) = false then
        { recordOutput b o with link := .misfit }
      else recordOutput b o := by
  simp only [Output.rewritten, enabled, up, reduceCtorEq, and_false, false_and, and_true, true_and, if_false,
    Bool.true_eq_false]
  rfl

theorem rewritten_misfit {b : List Byte} {o : Output} (enabled : (recordOutput b o).enabled = true)
    (misfit : o.link = .misfit) :
    o.rewritten b =
      if (u16 b 6 ≠ o.width ∨ u16 b 8 ≠ o.height) ∧ o.matchesSize (u16 b 6) (u16 b 8) = true then
        { recordOutput b o with link := .up }
      else recordOutput b o := by
  simp only [Output.rewritten, enabled, misfit, reduceCtorEq, and_false, false_and, and_true, true_and, if_false,
    Bool.true_eq_false]
  rfl

/-- R123: a handshake under way goes on with the record written. -/
theorem rewritten_handshake {b : List Byte} {o : Output} (enabled : (recordOutput b o).enabled = true)
    (handshake : o.link = .offer ∨ o.link = .matching ∨ o.link = .plain) : o.rewritten b = recordOutput b o := by
  rcases handshake with link | link | link
  · simp [Output.rewritten, enabled, link]
  · simp [Output.rewritten, enabled, link]
  · simp [Output.rewritten, enabled, link]

/-- R123, R134: the matched ability has the size. -/
theorem Output.matchesSize_iff (o : Output) (w h : Nat) :
    o.matchesSize w h = true ↔ ∃ a, o.matched = some a ∧ a.width = w ∧ a.height = h := by
  unfold Output.matchesSize
  cases o.matched <;> simp [Ability.sized]

/-- Settles O39: the refusals of OUTPUT PUT; then the record, PANEL_LINK, the reply, and the first case of R123. -/
theorem outputPutActs : Obligations.OutputPutActs := by
  intro b s taken
  rw [exec_outputPut taken]
  refine ⟨fun length => ?_, fun length out => ?_, fun length enable x y w w' h h' xw yh group g standby card k number n record => ?_⟩
  · rw [outputPut_badLength length, settle_refuse]
  · have bad : outputFieldsGood b = false := by
      rw [Bool.eq_false_iff, ne_eq, outputFieldsGood_iff]
      omega
    rw [outputPut_badField length bad, settle_refuse]
  · have cards : u8 b 11 < 64 := by
      cases standby with
      | none => exact card ▸ Nat.zero_lt_succ _
      | some c => exact card ▸ Nat.succ_lt_succ c.isLt
    have good := (outputFieldsGood_iff b).mpr
      ⟨by omega, by omega, x, y, w, w', h, h', xw, yh, by omega, cards⟩
    obtain rfl : recordOutput b s.outputs[k] = n := (recordOutput_eq g card _).trans record.symm
    refine ⟨s.outputs[k].rewritten b, _, ?_, rfl, fun resized fits size fit => ?_⟩
    · rw [outputPut_writes length good number, ← settle_putOutput]
      rfl
    have sizes : (u16 b 6 ≠ s.outputs[k].width ∨ u16 b 8 ≠ s.outputs[k].height) ↔ resized := size.symm
    have hits : s.outputs[k].matchesSize (u16 b 6) (u16 b 8) = true ↔ fits := (Output.matchesSize_iff _ _ _).trans fit.symm
    have misses : s.outputs[k].matchesSize (u16 b 6) (u16 b 8) = false ↔ ¬ fits := by
      rw [← hits, Bool.not_eq_true]
    refine ⟨rewritten_disabled, fun enabled => ⟨rewritten_off enabled, fun failed change => ?_, fun up change miss => ?_,
      fun misfit change hit => ?_, fun failed same => ?_, fun up stays => ?_, fun misfit stays => ?_,
      rewritten_handshake enabled⟩⟩
    · rw [rewritten_failed enabled failed, if_pos (sizes.mpr change)]
      rfl
    · rw [rewritten_up enabled up, if_pos ⟨sizes.mpr change, misses.mpr miss⟩]
    · rw [rewritten_misfit enabled misfit, if_pos ⟨sizes.mpr change, hits.mpr hit⟩]
    · rw [rewritten_failed enabled failed, if_neg (sizes.not.mpr same)]
    · rw [rewritten_up enabled up,
        if_neg (fun ⟨change, miss⟩ => stays.elim (fun same => same (sizes.mp change)) (misses.mp miss))]
    · rw [rewritten_misfit enabled misfit,
        if_neg (fun ⟨change, hit⟩ => stays.elim (fun same => same (sizes.mp change)) (fun miss => miss (hits.mp hit)))]

/-! ## OUTPUT GET (R124) -/

theorem exec_outputGet {s : State} (taken : s.Takes) (b : List Byte) :
    exec (.outputGet b) s = .next ((outputGet b s.countTaken).settle 0x71) :=
  congrArg Host.Outcome.next (sendCommand_takes taken)

theorem outputGet_badLength {b : List Byte} (length : b.length ≠ 1) (s : State) : outputGet b s = .refuse s .badLength :=
  if_pos length

theorem outputGet_badField {b : List Byte} (length : b.length = 1) (number : 4 ≤ u8 b 0) (s : State) :
    outputGet b s = .refuse s .badField := by
  rw [outputGet, if_neg (not_not.mpr length), if_pos number]

theorem outputGet_answers {b : List Byte} (length : b.length = 1) {k : Fin 4} (number : u8 b 0 = k.val) (s : State) :
    outputGet b s = .done s (outputBody k.val s.outputs[k]) := by
  obtain rfl : Fin.ofNat 4 (u8 b 0) = k := finOfNat_eq number
  rw [outputGet, if_neg (not_not.mpr length), if_neg (by omega)]
  exact congrArg (fun n => Answer.done s (outputBody n _)) number

/-- R124: the body of OUTPUT GET, byte by byte, up to the latest word. -/
theorem outputBody_eq (k : Nat) (o : Output) :
    outputBody k o =
      [BitVec.ofNat 8 k, (if o.enabled then 1 else 0)] ++ put16 o.x ++ put16 o.y ++ put16 o.width ++ put16 o.height ++
        [BitVec.ofNat 8 o.group.val, BitVec.ofNat 8 ((o.standby.map (·.val + 1)).getD 0), BitVec.ofNat 8 o.link.code,
          BitVec.ofNat 8 o.failures, (if o.presence then 1 else 0), (if o.faultLatch then 1 else 0),
          (if o.dropLatch then 1 else 0)] ++
        latestBody o.latest := by
  simp only [outputBody, put8_eq, putFlag_eq, cardCode_eq, List.append_assoc, List.cons_append, List.nil_append]

theorem latestBody_some (w : AbilityWord) :
    latestBody (some w) =
      [1] ++ put16 w.ability.width ++ put16 w.ability.height ++
        [BitVec.ofNat 8 w.ability.rate, (if w.ability.returnCapable then 1 else 0), (if w.fault then 1 else 0)] := by
  simp only [latestBody, put8_eq, putFlag_eq, List.append_assoc, List.cons_append, List.nil_append]
  rfl

/-! ## PANEL RELINK (R139) -/

theorem exec_panelRelink {s : State} (taken : s.Takes) (b : List Byte) :
    exec (.panelRelink b) s = .next ((panelRelink b s.countTaken).settle 0x72) :=
  congrArg Host.Outcome.next (sendCommand_takes taken)

theorem panelRelink_badLength {b : List Byte} (length : b.length ≠ 1) (s : State) :
    panelRelink b s = .refuse s .badLength := if_pos length

theorem panelRelink_badField {b : List Byte} (length : b.length = 1) (out : u8 b 0 = 0 ∨ 16 ≤ u8 b 0) (s : State) :
    panelRelink b s = .refuse s .badField := by
  simp [panelRelink, length, setOfFourGood_false out]

/-- R139: what a PANEL RELINK of a set does to an output. -/
def relinkNamed (set : Nat) (k : Fin 4) (o : Output) : Output := if set.testBit k.val then o.relinked else o

theorem relinkNamed_enabled {set : Nat} {k : Fin 4} {o : Output} (named : set.testBit k.val = true)
    (enabled : o.enabled = true) :
    relinkNamed set k o =
      { o.toOffer with failures := 0, matched := none, down := [], up := [], faultLatch := false, dropLatch := false } := by
  rw [relinkNamed, if_pos named, Output.relinked, if_pos enabled]

theorem relinkNamed_left {set : Nat} {k : Fin 4} {o : Output} (left : set.testBit k.val = false ∨ o.enabled = false) :
    relinkNamed set k o = o := by
  rcases left with unnamed | disabled
  · simp [relinkNamed, unnamed]
  · simp [relinkNamed, Output.relinked, disabled]

theorem panelRelink_relinks {b : List Byte} (length : b.length = 1) (low : 1 ≤ u8 b 0) (four : u8 b 0 < 16) (s : State) :
    panelRelink b s =
      .done (s.changeOutputs (relinkNamed (u8 b 0)))
        ((List.finRange 4).flatMap (fun k => put8 (relinkNamed (u8 b 0) k s.outputs[k]).link.code)) := by
  have codes : ∀ k : Fin 4, (s.changeOutputs (relinkNamed (u8 b 0))).outputs[k] = relinkNamed (u8 b 0) k s.outputs[k] := by
    simp
  simp only [← codes]
  rw [panelRelink, if_neg (not_not.mpr length), (setOfFourGood_iff _).mpr ⟨low, four⟩]
  rfl

/-- Settles O40: the codes of the link states, the refusals, the 25 bytes of OUTPUT GET, and PANEL RELINK output by output. -/
theorem outputGetAndRelink : Obligations.OutputGetAndRelink := by
  refine ⟨⟨rfl, rfl, rfl, rfl, rfl, rfl, rfl⟩, ?_⟩
  intro b s taken
  rw [exec_outputGet taken, exec_panelRelink taken]
  refine ⟨fun length => ?_, fun length number => ?_, fun length out => ?_, fun length k number => ?get,
    fun length low four => ?relink⟩
  · rw [outputGet_badLength length, panelRelink_badLength length, settle_refuse, settle_refuse]
    exact ⟨rfl, rfl⟩
  · rw [outputGet_badField length number, settle_refuse]
  · rw [panelRelink_badField length out, settle_refuse]
  case get =>
    refine ⟨latestBody s.outputs[k].latest, fun none => ?_, fun w some => ?_, ?_⟩
    · rw [none]
      rfl
    · rw [some, latestBody_some]
    · rw [outputGet_answers length number, settle_done, outputBody_eq]
      rfl
  case relink =>
    refine ⟨tab (fun k => relinkNamed (u8 b 0) k s.outputs[k]),
      (State.raiseSet .panelLink
        (fourWord (fun k => (relinkNamed (u8 b 0) k s.outputs[k]).link != s.outputs[k].link)) s).notices, ?_,
      fun k => ⟨fun named enabled => ?_, fun left => ?_⟩, ?_⟩
    · have raised := State.raiseSet_notices_congr .panelLink
        (fourWord (fun k => (relinkNamed (u8 b 0) k s.outputs[k]).link != s.outputs[k].link)) (s := s.countTaken) (t := s) rfl
      rw [panelRelink_relinks length low four, changeOutputs_eq, ← raised]
      rfl
    · rw [Fin.getElem_fin, getElem_tab]
      exact relinkNamed_enabled named enabled
    · rw [Fin.getElem_fin, getElem_tab]
      exact relinkNamed_left left
    · congr 3
      ext k
      simp [bne, beq_eq_decide]

end Sys2Proof.Machine
end

section
/-! PROOFS. O41: an ability word in each link state (R129 to R137, R167). -/

namespace Sys2Proof.Machine

/-! ## The word and its lane (R129, R167) -/

/-- R129: a valid ability. -/
theorem Ability.valid_iff (a : Ability) :
    a.valid = true ↔ 1 ≤ a.width ∧ a.width ≤ 3840 ∧ 1 ≤ a.height ∧ a.height ≤ 2160 := decide_eq_true_iff

/-- R164, R167: when the return lane of an output is read. -/
theorem State.laneOpen_iff (k : Fin 4) (s : State) :
    s.laneOpen k = true ↔ s.resetPin = false ∧ s.outputs[k].laneMuted = false := by
  rw [State.laneOpen, Bool.and_eq_true, Bool.not_eq_true', Bool.not_eq_true']

/-- R129, R167: a word with a bad check, on a muted lane or under reset changes nothing. -/
theorem exec_abilityWord_unheard {k : Fin 4} {bytes : List Byte} {s : State}
    (unheard : checkGood bytes = false ∨ s.resetPin = true ∨ s.outputs[k].laneMuted = true) :
    exec (.abilityWord k bytes) s = .next s := by
  refine congrArg Host.Outcome.next ?_
  rcases unheard with bad | shut
  · simp [readAbilityWord, bad]
  · split
    · rfl
    · refine if_neg ?_
      rw [State.laneOpen_iff]
      rintro ⟨released, unmuted⟩
      exact shut.elim (fun held => Bool.false_ne_true (released.symm.trans held))
        (fun muted => Bool.false_ne_true (unmuted.symm.trans muted))

theorem exec_abilityWord_heard {k : Fin 4} {bytes : List Byte} {s : State} (length : bytes.length = 8)
    (good : checkGood bytes = true) (released : s.resetPin = false) (unmuted : s.outputs[k].laneMuted = false) :
    exec (.abilityWord k bytes) s =
      .next (s.hearWord k
        { ability :=
            { width := u16 bytes 0, height := u16 bytes 2, rate := u8 bytes 4, returnCapable := (u8 bytes 5).testBit 0 }
          fault := (u8 bytes 5).testBit 1
          ack := (u8 bytes 5).testBit 2 }) := by
  refine congrArg Host.Outcome.next ?_
  rw [readAbilityWord, if_pos ⟨length, good⟩]
  exact if_pos ((State.laneOpen_iff k s).mpr ⟨released, unmuted⟩)

/-! ## The notices of a word (R136, R137) -/

theorem member_ne_zero (k : Fin 4) : member k.val ≠ 0 := by
  revert k
  decide

/-- R136: PANEL_FAULT is raised for a fault flag heard in UP or MISFIT. -/
theorem raiseSet_panelFault (k : Fin 4) (w : AbilityWord) (s : State) :
    State.raiseSet .panelFault (if s.outputs[k].linked && w.fault then member k.val else 0) s =
      if (s.outputs[k].link = .up ∨ s.outputs[k].link = .misfit) ∧ w.fault = true then
        State.raise .panelFault (addMembers (BitVec.ofNat 32 (2 ^ k.val))) s
      else s := by
  have heard : (s.outputs[k].linked && w.fault) = true ↔
      (s.outputs[k].link = .up ∨ s.outputs[k].link = .misfit) ∧ w.fault = true := by
    simp [Output.linked]
  by_cases faulty : (s.outputs[k].linked && w.fault) = true
  · rw [if_pos faulty, if_pos (heard.mp faulty)]
    exact if_neg (member_ne_zero k)
  · rw [if_neg faulty, if_neg (heard.not.mp faulty), State.raiseSet_zero]

/-- R136, R137: what a word writes: the output, PANEL_FAULT and PANEL_LINK. -/
theorem hearWord_eq (k : Fin 4) (w : AbilityWord) (s : State) {faulty : State}
    (raised : State.raiseSet .panelFault (if s.outputs[k].linked && w.fault then member k.val else 0) s = faulty) :
    s.hearWord k w =
      { s with
        outputs := s.outputs.set k (s.outputs[k].hear w)
        notices :=
          (if (s.outputs[k].hear w).link = s.outputs[k].link then faulty
           else State.raise .panelLink (addMembers (BitVec.ofNat 32 (2 ^ k.val))) faulty).notices } := by
  have same : faulty = { s with notices := faulty.notices } := by
    rw [← raised]
    exact State.raiseSet_eq _ _ s
  have written := putOutput_spec k (s.outputs[k].hear w) faulty
  rw [State.hearWord, raised, written]
  generalize s.outputs[k].hear w = r
  rw [same]

/-! ## OFFER (R131) -/

theorem hearOffer_restarts {w : AbilityWord} (useless : w.ack = true ∨ w.ability.valid = false) (o : Output) :
    o.hearOffer w = { o with silence := 0, run := 0, runAbility := none } := if_pos useless

/-- R131: a word that counts. -/
theorem hearOffer_counts {w : AbilityWord} (plain : w.ack = false) (valid : w.ability.valid = true) (o : Output) :
    o.hearOffer w =
      if (o.run = 1 ∨ o.run = 2) ∧ o.runAbility = some w.ability then
        if o.run = 2 then
          { o with silence := 0, run := 0, runAbility := none, link := .matching, matched := some w.ability, ackWait := 0 }
        else { o with silence := 0, run := o.run + 1 }
      else { o with silence := 0, run := 1, runAbility := some w.ability } := by
  refine if_neg ?_
  simp [plain, valid]

theorem hearOffer_second {w : AbilityWord} (plain : w.ack = false) (valid : w.ability.valid = true) {o : Output}
    (run : o.run = 1) (same : o.runAbility = some w.ability) : o.hearOffer w = { o with silence := 0, run := 2 } := by
  simp [hearOffer_counts plain valid, run, same]

theorem hearOffer_third {w : AbilityWord} (plain : w.ack = false) (valid : w.ability.valid = true) {o : Output}
    (run : o.run = 2) (same : o.runAbility = some w.ability) :
    o.hearOffer w =
      { o with silence := 0, run := 0, runAbility := none, link := .matching, matched := some w.ability, ackWait := 0 } := by
  simp [hearOffer_counts plain valid, run, same]

theorem hearOffer_first {w : AbilityWord} (plain : w.ack = false) (valid : w.ability.valid = true) {o : Output}
    (other : (o.run ≠ 1 ∧ o.run ≠ 2) ∨ o.runAbility ≠ some w.ability) :
    o.hearOffer w = { o with silence := 0, run := 1, runAbility := some w.ability } := by
  rw [hearOffer_counts plain valid, if_neg (by tauto)]

/-! ## MATCH (R132, R133) -/

theorem hearMatch_ignores {w : AbilityWord} (plain : w.ack = false) (o : Output) :
    o.hearMatch w = { o with silence := 0 } := if_pos plain

/-- R132: the acknowledging word completes the handshake. -/
theorem hearMatch_completes {w : AbilityWord} (ack : w.ack = true) (valid : w.ability.valid = true) {o : Output}
    (matched : o.matched = some w.ability) :
    o.hearMatch w =
      { o with
        silence := 0, failures := 0
        link := if w.ability.width = o.width ∧ w.ability.height = o.height then .up else .misfit } := by
  simp [Output.hearMatch, ack, valid, matched, Ability.sized]

theorem hearMatch_fails {w : AbilityWord} (ack : w.ack = true) {o : Output}
    (other : w.ability.valid = false ∨ o.matched ≠ some w.ability) :
    o.hearMatch w = ({ o with silence := 0 } : Output).fail := by
  rw [Output.hearMatch, if_neg (by simp [ack]), if_neg]
  rintro ⟨valid, same⟩
  exact other.elim (fun invalid => Bool.false_ne_true (invalid.symm.trans valid)) (fun differs => differs same)

/-! ## UP and MISFIT (R134, R136) -/

theorem hearUp_keeps {w : AbilityWord} (valid : w.ability.valid = true) {o : Output}
    (fits : o.matchesSize w.ability.width w.ability.height = true) :
    o.hearUp w = { o with silence := 0, faultLatch := o.faultLatch || w.fault } := if_pos ⟨valid, fits⟩

theorem hearUp_drops {w : AbilityWord} {o : Output}
    (changed : w.ability.valid = false ∨ o.matchesSize w.ability.width w.ability.height = false) :
    o.hearUp w = ({ o with silence := 0, faultLatch := o.faultLatch || w.fault } : Output).toOffer := by
  refine if_neg ?_
  rcases changed with invalid | differs
  · simp [invalid]
  · simp [differs]

theorem matchesSize_of_matched {o : Output} {m : Ability} (matched : o.matched = some m) (w h : Nat) :
    o.matchesSize w h = true ↔ w = m.width ∧ h = m.height := by
  rw [Output.matchesSize_iff, matched]
  constructor
  · rintro ⟨a, same, rfl, rfl⟩
    cases same
    exact ⟨rfl, rfl⟩
  · rintro ⟨rfl, rfl⟩
    exact ⟨m, rfl, rfl, rfl⟩

/-! ## Which rule a word meets (R130) -/

theorem hear_idle {o : Output} (idle : o.link = .off ∨ o.link = .failed) (w : AbilityWord) : o.hear w = o := by
  rcases idle with off | failed
  · simp [Output.hear, off]
  · simp [Output.hear, failed]

theorem hear_offer {o : Output} (offer : o.link = .offer) (w : AbilityWord) :
    o.hear w = ({ o with latest := some w } : Output).hearOffer w := by
  simp only [Output.hear, offer]

theorem hear_matching {o : Output} (matching : o.link = .matching) (w : AbilityWord) :
    o.hear w = ({ o with latest := some w } : Output).hearMatch w := by
  simp only [Output.hear, matching]

theorem hear_linked {o : Output} (linked : o.link = .up ∨ o.link = .misfit) (w : AbilityWord) :
    o.hear w = ({ o with latest := some w } : Output).hearUp w := by
  rcases linked with up | misfit
  · simp only [Output.hear, up]
  · simp only [Output.hear, misfit]

theorem hear_plain {o : Output} (plain : o.link = .plain) (w : AbilityWord) :
    o.hear w = ({ o with latest := some w } : Output).toOffer.hearOffer w := by
  simp only [Output.hear, plain]

/-- Settles O41: a word that is not heard; then the output, PANEL_FAULT and PANEL_LINK of one that is, link state by link
state. -/
theorem abilityWordHandled : Obligations.AbilityWordHandled := by
  intro k bytes s length
  refine ⟨exec_abilityWord_unheard, fun good released unmuted a w ability word => ?_⟩
  refine ⟨s.outputs[k].hear w, _, ?_, rfl, fun valid o meaning heard => ?_⟩
  · rw [exec_abilityWord_heard length good released unmuted, ← ability, ← word, hearWord_eq k w s (raiseSet_panelFault k w s)]
  obtain rfl : w.ability = a := by rw [word]
  subst heard
  have validIff : w.ability.valid = true ↔ valid := (Ability.valid_iff _).trans meaning.symm
  have invalidIff : w.ability.valid = false ↔ ¬ valid := by rw [← validIff, Bool.not_eq_true]
  clear ability word meaning
  refine ⟨fun idle => hear_idle idle w, fun offer => ?offer, fun matching => ?matching, fun linked m matched => ?linked,
    fun plain => ?plain⟩
  case offer =>
    rw [hear_offer (o := s.outputs[k]) offer]
    refine ⟨fun useless => ?_, fun unacked fine run same => ?_, fun unacked fine run same => ?_, fun unacked fine other => ?_⟩
    · exact hearOffer_restarts (useless.imp_right invalidIff.mpr) _
    · exact hearOffer_second unacked (validIff.mpr fine) run same
    · exact hearOffer_third unacked (validIff.mpr fine) run same
    · exact hearOffer_first unacked (validIff.mpr fine) other
  case matching =>
    rw [hear_matching (o := s.outputs[k]) matching]
    refine ⟨fun unacked => hearMatch_ignores unacked _, fun acked fine same => ?_, fun acked other => ?_⟩
    · have completed := hearMatch_completes acked (validIff.mpr fine) same
      exact ⟨fun sized => completed.trans (by rw [if_pos sized]), fun differs => completed.trans (by rw [if_neg differs])⟩
    · have failed := hearMatch_fails acked (other.imp_left invalidIff.mpr)
      exact ⟨fun few => failed.trans (Output.fail_again few), fun last => failed.trans (Output.fail_last last)⟩
  case linked =>
    have fits := matchesSize_of_matched matched w.ability.width w.ability.height
    rw [hear_linked (o := s.outputs[k]) linked]
    refine ⟨fun fine width height => ?_, fun changed => ?_⟩
    · exact hearUp_keeps (validIff.mpr fine) (fits.mpr ⟨width, height⟩)
    · refine hearUp_drops (changed.imp invalidIff.mpr (fun differs => Bool.eq_false_iff.mpr (fun same => ?_)))
      obtain ⟨width, height⟩ := fits.mp same
      exact differs.elim (fun other => other width) (fun other => other height)
  case plain =>
    rw [hear_plain (o := s.outputs[k]) plain]
    refine ⟨fun useless => ?_, fun unacked fine => ?_⟩
    · exact hearOffer_restarts (useless.imp_right invalidIff.mpr) _
    · exact hearOffer_first unacked (validIff.mpr fine) (.inl ⟨Nat.zero_ne_one, Nat.zero_ne_add_one 1⟩)

end Sys2Proof.Machine
end

section
/-! PROOFS. O59: every operation on an output keeps its link record, its window and its relay queues legal (R121 to R123, R130 to
R135, R139, R171 to R173, R178). -/

namespace Sys2Proof.Machine

/-! ## The link record, by link state -/

/-- R133: an output whose handshake may go on: enabled, with a failure still to spare. -/
def Output.Trying (o : Output) : Prop := o.enabled = true ∧ o.failures < 8 ∧ o.run ≤ 2

theorem Output.linkOk_off {o : Output} (off : o.link = .off) :
    o.LinkOk ↔ o.enabled = false ∧ o.failures ≤ 8 ∧ o.run ≤ 2 := by
  simp [Output.LinkOk, off]

theorem Output.linkOk_offer {o : Output} (offer : o.link = .offer) : o.LinkOk ↔ o.Trying ∧ o.silence < 60 := by
  simp [Output.LinkOk, Output.Trying, offer]
  grind

theorem Output.linkOk_matching {o : Output} (matching : o.link = .matching) :
    o.LinkOk ↔ o.Trying ∧ o.matched.isSome = true ∧ o.ackWait < 30 := by
  simp [Output.LinkOk, Output.Trying, matching]
  grind

theorem Output.linkOk_up {o : Output} (up : o.link = .up) :
    o.LinkOk ↔ o.Trying ∧ o.matchesSize o.width o.height = true ∧ o.silence < 10 := by
  simp [Output.LinkOk, Output.Trying, up]
  grind

theorem Output.linkOk_misfit {o : Output} (misfit : o.link = .misfit) :
    o.LinkOk ↔
      o.Trying ∧ o.matched.isSome = true ∧ o.matchesSize o.width o.height = false ∧ o.silence < 10 := by
  simp [Output.LinkOk, Output.Trying, misfit]
  grind

theorem Output.linkOk_plain {o : Output} (plain : o.link = .plain) : o.LinkOk ↔ o.Trying := by
  simp [Output.LinkOk, Output.Trying, plain]
  grind

theorem Output.linkOk_failed {o : Output} (failed : o.link = .failed) :
    o.LinkOk ↔ o.enabled = true ∧ o.failures = 8 ∧ o.run ≤ 2 := by
  simp [Output.LinkOk, failed]
  grind

/-- R130: every entry into OFFER. -/
theorem Output.Trying.toOffer {o : Output} (trying : o.Trying) : o.toOffer.LinkOk :=
  (Output.linkOk_offer rfl).mpr ⟨⟨trying.1, trying.2.1, Nat.zero_le 2⟩, Nat.zero_lt_succ _⟩

/-- R133: a failure, the last one or another. -/
theorem Output.Trying.fail {o : Output} (trying : o.Trying) : o.fail.LinkOk := by
  obtain ⟨enabled, spare, run⟩ := trying
  by_cases few : o.failures + 1 < 8
  · rw [Output.fail_again few]
    exact Output.Trying.toOffer ⟨enabled, few, run⟩
  · rw [Output.fail_last (not_lt.mp few)]
    exact (Output.linkOk_failed rfl).mpr ⟨enabled, by dsimp only; omega, run⟩


theorem Output.matched_of_matchesSize {o : Output} {w h : Nat} (fits : o.matchesSize w h = true) :
    o.matched.isSome = true := by
  obtain ⟨a, matched, -⟩ := (o.matchesSize_iff w h).mp fits
  rw [matched]
  rfl

/-! ## The link work of a frame start (R131 to R135) -/

theorem Output.LinkOk.linkFrame {o : Output} (ok : o.LinkOk) (present : Bool) : (o.linkFrame present).LinkOk := by
  cases link : o.link with
  | off => rwa [Output.linkFrame_idle (.inl link)]
  | failed => rwa [Output.linkFrame_idle (.inr link)]
  | offer =>
    obtain ⟨trying, early⟩ := (Output.linkOk_offer link).mp ok
    rw [Output.linkFrame_offer link]
    unfold Output.offerFrame
    split
    · split
      · exact (Output.linkOk_plain rfl).mpr trying
      · rename_i short
        exact (Output.linkOk_offer (by exact link)).mpr ⟨trying, lt_of_not_ge short⟩
    · exact (Output.linkOk_offer (by exact link)).mpr ⟨⟨trying.1, trying.2.1, Nat.zero_le 2⟩, Nat.zero_lt_succ _⟩
  | matching =>
    obtain ⟨trying, matched, early⟩ := (Output.linkOk_matching link).mp ok
    rw [Output.linkFrame_matching link]
    unfold Output.matchFrame
    split
    · split
      · exact Output.Trying.fail trying
      · rename_i short
        exact (Output.linkOk_matching (by exact link)).mpr ⟨trying, matched, lt_of_not_ge short⟩
    · exact trying.toOffer
  | up =>
    obtain ⟨trying, fits, early⟩ := (Output.linkOk_up link).mp ok
    rw [Output.linkFrame_linked (.inl link)]
    unfold Output.upFrame
    split
    · split
      · exact trying.toOffer
      · rename_i short
        exact (Output.linkOk_up (by exact link)).mpr ⟨trying, fits, lt_of_not_ge short⟩
    · exact trying.toOffer
  | misfit =>
    obtain ⟨trying, matched, misfits, early⟩ := (Output.linkOk_misfit link).mp ok
    rw [Output.linkFrame_linked (.inr link)]
    unfold Output.upFrame
    split
    · split
      · exact trying.toOffer
      · rename_i short
        exact (Output.linkOk_misfit (by exact link)).mpr ⟨trying, matched, misfits, lt_of_not_ge short⟩
    · exact trying.toOffer
  | plain =>
    rw [Output.linkFrame_plain link]
    split
    · exact ok
    · exact ((Output.linkOk_plain link).mp ok).toOffer

/-! ## Ability words (R131 to R136) -/

theorem Output.Trying.hearOffer {o : Output} (trying : o.Trying) (offer : o.link = .offer) (w : AbilityWord) :
    (o.hearOffer w).LinkOk := by
  obtain ⟨enabled, spare, -⟩ := trying
  unfold Output.hearOffer
  split
  · exact (Output.linkOk_offer (by exact offer)).mpr ⟨⟨enabled, spare, Nat.zero_le 2⟩, Nat.zero_lt_succ _⟩
  split
  · rename_i same
    split
    · exact (Output.linkOk_matching rfl).mpr ⟨⟨enabled, spare, Nat.zero_le 2⟩, rfl, Nat.zero_lt_succ _⟩
    · rename_i notThird
      exact (Output.linkOk_offer (by exact offer)).mpr ⟨⟨enabled, spare, by dsimp only; omega⟩, Nat.zero_lt_succ _⟩
  · exact (Output.linkOk_offer (by exact offer)).mpr ⟨⟨enabled, spare, Nat.le_succ 1⟩, Nat.zero_lt_succ _⟩

/-- R132: an acknowledged ability of the window's size takes the output to UP, one of another size to MISFIT. -/
theorem Output.LinkOk.hearMatch {o : Output} (ok : o.LinkOk) (matching : o.link = .matching) (w : AbilityWord) :
    (o.hearMatch w).LinkOk := by
  obtain ⟨trying, matched, early⟩ := (Output.linkOk_matching matching).mp ok
  have reset : ({ o with silence := 0, failures := 0 } : Output).Trying := ⟨trying.1, Nat.zero_lt_succ _, trying.2.2⟩
  unfold Output.hearMatch
  split
  · exact (Output.linkOk_matching (by exact matching)).mpr ⟨trying, matched, early⟩
  split
  · rename_i acknowledged
    have size : o.matchesSize o.width o.height = w.ability.sized o.width o.height := by
      rw [Output.matchesSize, acknowledged.2]
    split
    · rename_i sized
      exact (Output.linkOk_up rfl).mpr ⟨reset, size.trans sized, Nat.zero_lt_succ _⟩
    · rename_i other
      exact (Output.linkOk_misfit rfl).mpr ⟨reset, matched, size.trans (Bool.eq_false_iff.mpr other), Nat.zero_lt_succ _⟩
  · exact Output.Trying.fail trying

/-- R134, R136: an UP or MISFIT output keeps its link or drops to OFFER. -/
theorem Output.LinkOk.hearUp {o : Output} (ok : o.LinkOk) (linked : o.link = .up ∨ o.link = .misfit) (w : AbilityWord) :
    (o.hearUp w).LinkOk := by
  unfold Output.hearUp
  rcases linked with up | misfit
  · obtain ⟨trying, fits, -⟩ := (Output.linkOk_up up).mp ok
    split
    · exact (Output.linkOk_up (by exact up)).mpr ⟨trying, fits, Nat.zero_lt_succ _⟩
    · exact Output.Trying.toOffer trying
  · obtain ⟨trying, matched, misfits, -⟩ := (Output.linkOk_misfit misfit).mp ok
    split
    · exact (Output.linkOk_misfit (by exact misfit)).mpr ⟨trying, matched, misfits, Nat.zero_lt_succ _⟩
    · exact Output.Trying.toOffer trying

theorem Output.LinkOk.hear {o : Output} (ok : o.LinkOk) (w : AbilityWord) : (o.hear w).LinkOk := by
  have heard : ({ o with latest := some w } : Output).LinkOk := ok
  cases link : o.link with
  | off => rwa [hear_idle (.inl link)]
  | failed => rwa [hear_idle (.inr link)]
  | offer =>
    have trying : ({ o with latest := some w } : Output).Trying := ((Output.linkOk_offer link).mp ok).1
    rw [hear_offer link]
    exact trying.hearOffer link w
  | matching =>
    rw [hear_matching link]
    exact heard.hearMatch link w
  | up =>
    rw [hear_linked (.inl link)]
    exact heard.hearUp (.inl link) w
  | misfit =>
    rw [hear_linked (.inr link)]
    exact heard.hearUp (.inr link) w
  | plain =>
    obtain ⟨enabled, spare, -⟩ := (Output.linkOk_plain link).mp ok
    have again : ({ o with latest := some w } : Output).toOffer.Trying := ⟨enabled, spare, Nat.zero_le 2⟩
    rw [hear_plain link]
    exact again.hearOffer rfl w

/-! ## OUTPUT PUT and PANEL RELINK (R123, R139) -/

/-- R123, R139: a handshake begun with no failure on the count. -/
theorem Output.linkOk_fresh {o : Output} (enabled : o.enabled = true) (offer : o.link = .offer) (clean : o.failures = 0)
    (run : o.run = 0) (silence : o.silence = 0) : o.LinkOk :=
  (Output.linkOk_offer offer).mpr ⟨⟨enabled, by omega, by omega⟩, by omega⟩

/-- R123: the link record suits the record written. -/
theorem Output.LinkOk.rewritten {o : Output} (ok : o.LinkOk) (b : List Byte) : (o.rewritten b).LinkOk := by
  have ⟨_, failures, _, _, run, _⟩ := ok
  cases enabled : (recordOutput b o).enabled with
  | false =>
    rw [rewritten_disabled enabled]
    exact (Output.linkOk_off rfl).mpr ⟨enabled, failures, run⟩
  | true =>
    cases link : o.link with
    | off =>
      rw [rewritten_off enabled link]
      exact Output.linkOk_fresh enabled rfl rfl rfl rfl
    | failed =>
      obtain ⟨-, eight, -⟩ := (Output.linkOk_failed link).mp ok
      rw [rewritten_failed enabled link]
      split
      · exact Output.linkOk_fresh enabled rfl rfl rfl rfl
      · exact (Output.linkOk_failed (by exact link)).mpr ⟨enabled, eight, run⟩
    | up =>
      obtain ⟨⟨-, spare, -⟩, fits, early⟩ := (Output.linkOk_up link).mp ok
      rw [rewritten_up enabled link]
      split
      · rename_i resized
        exact (Output.linkOk_misfit rfl).mpr
          ⟨⟨enabled, spare, run⟩, Output.matched_of_matchesSize fits, resized.2, early⟩
      · rename_i kept
        refine (Output.linkOk_up (by exact link)).mpr ⟨⟨enabled, spare, run⟩, ?_, early⟩
        change o.matchesSize (u16 b 6) (u16 b 8) = true
        grind
    | misfit =>
      obtain ⟨⟨-, spare, -⟩, matched, misfits, early⟩ := (Output.linkOk_misfit link).mp ok
      rw [rewritten_misfit enabled link]
      split
      · rename_i resized
        exact (Output.linkOk_up rfl).mpr ⟨⟨enabled, spare, run⟩, resized.2, early⟩
      · rename_i kept
        refine (Output.linkOk_misfit (by exact link)).mpr ⟨⟨enabled, spare, run⟩, matched, ?_, early⟩
        change o.matchesSize (u16 b 6) (u16 b 8) = false
        grind
    | offer =>
      obtain ⟨⟨-, spare, -⟩, early⟩ := (Output.linkOk_offer link).mp ok
      rw [rewritten_handshake enabled (.inl link)]
      exact (Output.linkOk_offer (by exact link)).mpr ⟨⟨enabled, spare, run⟩, early⟩
    | matching =>
      obtain ⟨⟨-, spare, -⟩, matched, early⟩ := (Output.linkOk_matching link).mp ok
      rw [rewritten_handshake enabled (.inr (.inl link))]
      exact (Output.linkOk_matching (by exact link)).mpr ⟨⟨enabled, spare, run⟩, matched, early⟩
    | plain =>
      obtain ⟨-, spare, -⟩ := (Output.linkOk_plain link).mp ok
      rw [rewritten_handshake enabled (.inr (.inr link))]
      exact (Output.linkOk_plain (by exact link)).mpr ⟨enabled, spare, run⟩

theorem Output.LinkOk.relinked {o : Output} (ok : o.LinkOk) : o.relinked.LinkOk := by
  unfold Output.relinked
  split
  · rename_i enabled
    exact Output.linkOk_fresh enabled rfl rfl rfl rfl
  · exact ok

/-! ## The whole record of an output -/

/-- R121, R171, R173: the link record, the window and the relay queues of an output are legal. -/
structure Output.Ok (o : Output) : Prop where
  link : o.LinkOk
  window : o.WindowOk
  queues : o.QueuesOk

/-- R130 to R135: a frame start changes nothing of an output but its link record, the presence and the mute. -/
theorem Output.linkFrame_frame (present : Bool) (o : Output) :
    o.linkFrame present =
      { o with
        link := (o.linkFrame present).link, failures := (o.linkFrame present).failures, run := (o.linkFrame present).run
        runAbility := (o.linkFrame present).runAbility, silence := (o.linkFrame present).silence
        ackWait := (o.linkFrame present).ackWait, dropLatch := (o.linkFrame present).dropLatch } := by
  unfold Output.linkFrame Output.offerFrame Output.matchFrame Output.upFrame Output.fail
  repeat' split
  all_goals rfl

/-- R131 to R136: a word changes nothing of an output but its link record, the latest word and the fault latch. -/
theorem Output.hear_frame (w : AbilityWord) (o : Output) :
    o.hear w =
      { o with
        link := (o.hear w).link, failures := (o.hear w).failures, run := (o.hear w).run
        runAbility := (o.hear w).runAbility, silence := (o.hear w).silence, ackWait := (o.hear w).ackWait
        matched := (o.hear w).matched, latest := (o.hear w).latest, faultLatch := (o.hear w).faultLatch } := by
  unfold Output.hear Output.hearOffer Output.hearMatch Output.hearUp Output.fail
  repeat' split
  all_goals rfl

/-- R123: OUTPUT PUT writes the record sent and the link record. -/
theorem Output.rewritten_frame (b : List Byte) (o : Output) :
    o.rewritten b =
      { recordOutput b o with
        link := (o.rewritten b).link, failures := (o.rewritten b).failures, run := (o.rewritten b).run
        runAbility := (o.rewritten b).runAbility, silence := (o.rewritten b).silence
        ackWait := (o.rewritten b).ackWait, matched := (o.rewritten b).matched } := by
  unfold Output.rewritten
  dsimp only
  repeat' split
  all_goals rfl

theorem Output.Ok.atFrame {o : Output} (ok : o.Ok) (present : Bool) : (o.atFrame present).Ok where
  link := ok.link.linkFrame present
  window := by
    rw [Output.atFrame, Output.linkFrame_frame]
    exact ok.window
  queues := by
    rw [Output.atFrame, Output.linkFrame_frame]
    exact ok.queues

/-- R172: the packets placed leave the down queue. -/
theorem Output.Ok.afterPlacing {o : Output} (ok : o.Ok) : o.afterPlacing.Ok := by
  obtain ⟨link, window, down, up⟩ := ok
  unfold Output.afterPlacing
  split
  · exact ⟨link, window, (List.drop_sublist _ _).length_le.trans down, up⟩
  · exact ⟨link, window, down, up⟩

theorem Output.Ok.hear {o : Output} (ok : o.Ok) (w : AbilityWord) : (o.hear w).Ok where
  link := ok.link.hear w
  window := by
    rw [Output.hear_frame]
    exact ok.window
  queues := by
    rw [Output.hear_frame]
    exact ok.queues

/-- R122, R123: the window written is one that the field checks allow. -/
theorem Output.Ok.rewritten {o : Output} (ok : o.Ok) {b : List Byte} (good : outputFieldsGood b = true) :
    (o.rewritten b).Ok where
  link := ok.link.rewritten b
  window := by
    obtain ⟨-, -, -, -, low, width, low', height, right, bottom, -⟩ := (outputFieldsGood_iff b).mp good
    rw [Output.rewritten_frame]
    exact ⟨low, width, low', height, right, bottom⟩
  queues := by
    rw [Output.rewritten_frame]
    exact ok.queues

theorem Output.Ok.relinked {o : Output} (ok : o.Ok) : o.relinked.Ok where
  link := ok.link.relinked
  window := by
    unfold Output.relinked
    split <;> exact ok.window
  queues := by
    unfold Output.relinked
    split
    · exact ⟨Nat.zero_le _, Nat.zero_le _⟩
    · exact ok.queues

/-- R171: a packet joins a down queue that has room, and no other. -/
theorem Output.Ok.joinDown {o : Output} (ok : o.Ok) (packet : List Byte) : (o.joinDown packet).Ok := by
  obtain ⟨link, window, down, up⟩ := ok
  unfold Output.joinDown
  split
  · rename_i room
    refine ⟨link, window, ?_, up⟩
    rw [List.length_append]
    exact room.2
  · exact ⟨link, window, down, up⟩

/-- R164: an output after a full reset. -/
theorem Output.ok_reset (k : Fin 4) : (Output.reset k.val).Ok := by
  refine ⟨Output.linkOk_fresh rfl rfl rfl rfl rfl, ?_, Nat.zero_le _, Nat.zero_le _⟩
  have := k.isLt
  refine ⟨?_, ?_, ?_, ?_, ?_, ?_⟩ <;> simp only [Output.reset] <;> omega

end Sys2Proof.Machine
end

section
/-! PROOFS. O59, continued: every command, every event and so every step keeps the outputs, the margin channel and the notice
priorities legal (R153, R158, R171, R173, R175, R176). -/

namespace Sys2Proof.Machine

/-! ## The notices (R170, R175, R176) -/

/-- Notices with the priorities they had, and nothing pending that a priority of 0 kept from being pending. -/
theorem NoticesOk.of_priorities {before after : Vector Notice 14} (ok : NoticesOk before)
    (priorities : ∀ i : Fin 14, after[i].priority = before[i].priority)
    (silent : ∀ i : Fin 14, before[i].priority = 0 → before[i].held = none → after[i].held = none) : NoticesOk after := by
  obtain ⟨restarted, dark, plain, held⟩ := ok
  exact ⟨(priorities 0).trans restarted, (priorities 1).trans dark, fun i high => (priorities i).trans_le (plain i high),
    fun i zero => silent i ((priorities i).symm.trans zero) (held i ((priorities i).symm.trans zero))⟩

/-- R175: a raise keeps every priority, and a source with priority 0 ignores it. -/
@[simp] theorem noticesOk_raise {s : State} (ok : NoticesOk s.notices) (src : Source) (merge : Option Word → Word) :
    NoticesOk (State.raise src merge s).notices :=
  ok.of_priorities (fun i => State.raise_priority src merge s i.val i.isLt)
    (fun i zero none => (State.raise_held_of_zero src merge s i.val i.isLt zero).trans none)

@[simp] theorem noticesOk_raiseSet {s : State} (ok : NoticesOk s.notices) (src : Source) (set : Word) :
    NoticesOk (State.raiseSet src set s).notices := by
  unfold State.raiseSet
  split
  · exact ok
  · exact noticesOk_raise ok src _

@[simp] theorem noticesOk_countAvail {s : State} (ok : NoticesOk s.notices) (n : Nat) :
    NoticesOk (State.countAvail n s).notices := by
  unfold State.countAvail
  split
  · exact ok
  · exact noticesOk_raise ok _ _

theorem noticesOk_raiseFaults {s : State} (ok : NoticesOk s.notices) (slots : List Nat) :
    NoticesOk (State.raiseFaults slots s).notices := by
  induction slots generalizing s with
  | nil => exact ok
  | cons n rest ih => exact ih (noticesOk_raise ok _ _)

@[simp] theorem noticesOk_landLines {s : State} (ok : NoticesOk s.notices) (touched : LineSet) (lines : Vector Line 8) :
    NoticesOk (s.landLines touched lines).notices := by
  rw [(landLines_spec touched lines s).2]
  exact noticesOk_countAvail ok _

@[simp] theorem noticesOk_rebindSlot {s : State} (ok : NoticesOk s.notices) (n : Nat) (r : Option SlotRecord) :
    NoticesOk (s.rebindSlot n r).notices := by
  rw [(rebindSlot_spec n r s).2.2.2]
  split
  · exact noticesOk_raise ok _ _
  · exact ok

/-- R170, R176: a notice written with its priority, or with another one that its source may have. -/
theorem NoticesOk.set {notices : Vector Notice 14} (ok : NoticesOk notices) {i : Fin 14} {n : Notice}
    (priority : n.priority = notices[i].priority ∨ (2 ≤ i.val ∧ n.priority ≤ 7)) (silent : n.priority = 0 → n.held = none) :
    NoticesOk (notices.set i n) := by
  obtain ⟨restarted, dark, plain, held⟩ := ok
  have severe : ∀ j : Fin 14, j.val < 2 → (notices.set i n)[j].priority = notices[j].priority := by
    intro j low
    rw [getElem_set_fin]
    split
    · rename_i same
      subst same
      exact priority.resolve_right (fun high => absurd high.1 (not_le.mpr low))
    · rfl
  refine ⟨(severe 0 Nat.zero_lt_two).trans restarted, (severe 1 Nat.one_lt_two).trans dark, fun j high => ?_, fun j zero => ?_⟩
  · rw [getElem_set_fin]
    split
    · rename_i same
      subst same
      exact priority.elim (fun kept => kept.trans_le (plain j high)) (fun set => set.2)
    · exact plain j high
  · rw [getElem_set_fin] at zero ⊢
    by_cases same : j = i
    · rw [if_pos same] at zero ⊢
      exact silent zero
    · rw [if_neg same] at zero ⊢
      exact held j zero

/-! ## The invariant -/

/-- R121, R153, R158, R171, R173, R176: the outputs, the margin channel and the notice priorities are legal. -/
structure State.LinksOk (s : State) : Prop where
  outputs : ∀ k : Fin 4, s.outputs[k].Ok
  margin : s.margin.Ok
  notices : NoticesOk s.notices

/-- A state with the outputs and the margin channel it had, and legal notices. -/
theorem State.LinksOk.of_notices {s t : State} (ok : s.LinksOk) (notices : NoticesOk t.notices)
    (outputs : t.outputs = s.outputs := by simp) (margin : t.margin = s.margin := by simp) : t.LinksOk where
  outputs := outputs ▸ ok.outputs
  margin := margin ▸ ok.margin
  notices := notices

/-- A state with the outputs, the margin channel and the notices it had. -/
theorem State.LinksOk.of_eq {s t : State} (ok : s.LinksOk) (outputs : t.outputs = s.outputs := by simp)
    (margin : t.margin = s.margin := by simp) (notices : t.notices = s.notices := by simp) : t.LinksOk :=
  ok.of_notices (notices ▸ ok.notices) outputs margin

theorem State.LinksOk.raise {s : State} (ok : s.LinksOk) (src : Source) (merge : Option Word → Word) :
    (State.raise src merge s).LinksOk := ok.of_notices (noticesOk_raise ok.notices src merge)

theorem State.LinksOk.raiseSet {s : State} (ok : s.LinksOk) (src : Source) (set : Word) :
    (State.raiseSet src set s).LinksOk := ok.of_notices (noticesOk_raiseSet ok.notices src set)

/-- A state with legal outputs and the margin channel it had. -/
theorem State.LinksOk.of_outputs {s t : State} (ok : s.LinksOk) (outputs : ∀ k : Fin 4, t.outputs[k].Ok)
    (notices : NoticesOk t.notices) (margin : t.margin = s.margin := by simp) : t.LinksOk where
  outputs := outputs
  margin := margin ▸ ok.margin
  notices := notices

/-- One output written. -/
theorem State.LinksOk.setOutput {s t : State} (ok : s.LinksOk) {k : Fin 4} {o : Output} (legal : o.Ok)
    (written : t.outputs = s.outputs.set k o) (notices : t.notices = s.notices) (margin : t.margin = s.margin) :
    t.LinksOk := by
  refine ok.of_outputs (fun j => ?_) (notices ▸ ok.notices) margin
  rw [written, getElem_set_fin]
  split
  · exact legal
  · exact ok.outputs j

/-- R137: one output written, its link change raised. -/
theorem State.LinksOk.putOutput {s : State} (ok : s.LinksOk) (k : Fin 4) {o : Output} (legal : o.Ok) :
    (s.putOutput k o).LinksOk := by
  have written : ({ s with outputs := s.outputs.set k o } : State).LinksOk := ok.setOutput legal rfl rfl rfl
  unfold State.putOutput
  split
  · exact written
  · exact written.raise _ _

/-- R137: every output changed, the link changes raised. -/
theorem State.LinksOk.changeOutputs {s : State} (ok : s.LinksOk) {f : Fin 4 → Output → Output}
    (legal : ∀ k o, o.Ok → (f k o).Ok) : (s.changeOutputs f).LinksOk := by
  rw [changeOutputs_eq]
  refine ok.of_outputs (fun k => ?_) (noticesOk_raiseSet ok.notices _ _)
  rw [Fin.getElem_fin, getElem_tab]
  exact legal k _ (ok.outputs k)

/-! ## Commands -/

/-- The effect keeps the outputs, the margin channel and the notices legal, and does not queue a reply by itself. -/
structure KeepsLinks (eff : List Byte → State → Answer) : Prop where
  legal : ∀ b s, s.LinksOk → (eff b s).state.LinksOk
  replies : ∀ b s, (eff b s).state.margin.replies.length ≤ s.margin.replies.length

/-- A command with a proper answer leaves the margin channel as it is. -/
theorem Answer.Proper.margin {s : State} {a : Answer} (proper : a.Proper s) : a.state.margin = s.margin := by
  obtain ⟨-, -, -, -, margin, -⟩ := proper
  exact margin

theorem KeepsLinks.of_proper {eff : List Byte → State → Answer} (proper : ∀ b s, (eff b s).Proper s)
    (legal : ∀ b s, s.LinksOk → (eff b s).state.LinksOk) : KeepsLinks eff :=
  ⟨legal, fun b s => by rw [(proper b s).margin]⟩

theorem keepsLinks_outputPut : KeepsLinks outputPut := by
  refine .of_proper proper_outputPut (fun b s ok => ?_)
  unfold outputPut
  split
  · exact ok
  split
  · exact ok
  · rename_i good
    exact ok.putOutput _ ((ok.outputs _).rewritten (by simpa using good))

theorem keepsLinks_panelRelink : KeepsLinks panelRelink := by
  refine .of_proper proper_panelRelink (fun b s ok => ?_)
  unfold panelRelink
  split
  · exact ok
  split
  · exact ok
  · refine ok.changeOutputs (f := relinkNamed (u8 b 0)) (fun k o legal => ?_)
    unfold relinkNamed
    split
    · exact legal.relinked
    · exact legal

theorem keepsLinks_status : KeepsLinks status := by
  refine .of_proper proper_status (fun b s ok => ?_)
  unfold status
  split
  · exact ok
  · refine ok.of_outputs (fun k => ?_) ok.notices rfl
    obtain ⟨link, window, queues⟩ := ok.outputs k
    simp only [Answer.done_state, State.clearLatches, Fin.getElem_fin, getElem_tab]
    exact ⟨link, window, queues⟩

/-- R176: NOTICE PUT gives a priority 0..7 to a source that is not severe. -/
theorem keepsLinks_noticePut : KeepsLinks noticePut := by
  refine .of_proper proper_noticePut (fun b s ok => ?_)
  unfold noticePut
  split
  · exact ok
  split
  · exact ok
  · rename_i good
    refine ok.of_notices (ok.notices.set (Or.inr ⟨?_, ?_⟩) (fun zero => if_pos zero))
    · rw [val_finOfNat (by omega)]
      omega
    · change u8 b 1 ≤ 7
      omega

/-- R163, R164: a full reset. -/
theorem linksOk_fullReset (s : State) : s.fullReset.LinksOk where
  outputs k := by
    have reset : s.fullReset.outputs[k] = Output.reset k.val := by
      revert k
      simp [State.fullReset, State.reset, Fin.forall_fin_succ]
    rw [reset]
    exact Output.ok_reset k
  margin := ⟨Nat.zero_le _, Nat.zero_le _⟩
  notices := by
    change NoticesOk noticesReset
    unfold NoticesOk
    decide +kernel

theorem keepsLinks_restart : KeepsLinks restart := by
  constructor
  · intro b s ok
    unfold restart
    split
    · exact ok
    · exact linksOk_fullReset s
  · intro b s
    unfold restart
    split
    · exact le_refl _
    · exact Nat.zero_le _

/-- The effect writes no output, leaves the margin channel as it is, and at most raises notices. -/
def LeavesLinks (eff : List Byte → State → Answer) : Prop :=
  ∀ b s, (eff b s).state.outputs = s.outputs ∧ (eff b s).state.margin = s.margin ∧
    (NoticesOk s.notices → NoticesOk (eff b s).state.notices)

theorem LeavesLinks.keeps {eff : List Byte → State → Answer} (leaves : LeavesLinks eff) : KeepsLinks eff where
  legal b s ok := by
    obtain ⟨outputs, margin, notices⟩ := leaves b s
    exact ok.of_notices (notices ok.notices) outputs margin
  replies b s := by
    obtain ⟨-, margin, -⟩ := leaves b s
    rw [margin]

theorem rebindSlot_outputs (n : Nat) (r : Option SlotRecord) (s : State) : (s.rebindSlot n r).outputs = s.outputs := by
  rw [rebindSlot_frame]

/-- The effects that leave the outputs and the margin channel as they are and set no priority. -/
def linkFreeEffects : List (List Byte → State → Answer) :=
  [itemPut, itemDrop, itemGet, itemList, pricePut, formatPut, formatGet, formatMode, slotPut, slotDrop, slotGet, mark, availList,
    linePut, lineGet, groupPut, groupGet, flipCommand, hold, release, clockSet, clockGet, schedulePut, scheduleDrop, scheduleGet,
    outputGet, feedPut, feedGet, artOpen, artWrite, artClose, artDrop, artGet, unknown]

theorem leavesLinks_of_free {eff : List Byte → State → Answer} (free : eff ∈ linkFreeEffects) : LeavesLinks eff := by
  intro b s
  simp only [linkFreeEffects, List.mem_cons, List.not_mem_nil, or_false] at free
  rcases free with rfl | rfl | rfl | rfl | rfl | rfl | rfl | rfl | rfl | rfl | rfl | rfl | rfl | rfl | rfl | rfl | rfl | rfl | rfl |
    rfl | rfl | rfl | rfl | rfl | rfl | rfl | rfl | rfl | rfl | rfl | rfl | rfl | rfl | rfl
  all_goals
    simp only [itemPut, itemDrop, itemGet, itemList, pricePut, formatPut, formatGet, formatMode, slotPut, slotDrop, slotGet, mark,
      availList, linePut, lineGet, groupPut, groupGet, flipCommand, hold, release, holdOrRelease, clockSet, resync, clockGet,
      schedulePut, scheduleDrop, scheduleGet, outputGet, feedPut, feedGet, artOpen, Machine.artOpenAt, artWrite, artClose, artDrop,
      artGet, unknown, State.putItem]
    repeat' split
  all_goals
    exact ⟨by simp [rebindSlot_outputs], by simp [rebindSlot_others], fun legal => by simp [legal]⟩

end Sys2Proof.Machine
end

section
/-! PROOFS. O59, concluded: the gate before every command, the margin channel, the frame start, the events and the step. -/

namespace Sys2Proof.Machine

/-! ## The command index and the gate (R155, R158, R159, R165) -/

/-- R165: every effect of the command index keeps the outputs, the margin channel and the notices legal. -/
theorem keepsLinks_commandEffect {code : Byte} {eff : List Byte → State → Answer} (h : commandEffect code = some eff) :
    KeepsLinks eff := by
  unfold commandEffect at h
  split at h <;> cases h
  -- The cases stand in the order of the index.
  case h_1 => exact keepsLinks_restart
  case h_27 => exact keepsLinks_outputPut
  case h_29 => exact keepsLinks_panelRelink
  case h_32 => exact keepsLinks_status
  case h_33 => exact keepsLinks_noticePut
  all_goals exact (leavesLinks_of_free (by simp [linkFreeEffects])).keeps

theorem keepsLinks_unknown : KeepsLinks unknown := (leavesLinks_of_free (by simp [linkFreeEffects])).keeps

theorem keepsLinks_getD (code : Byte) : KeepsLinks ((commandEffect code).getD unknown) := by
  cases named : commandEffect code with
  | none => exact keepsLinks_unknown
  | some eff => exact keepsLinks_commandEffect named

/-- R158: a reply that joins a queue with room for it. -/
theorem State.LinksOk.queueReply {s : State} (ok : s.LinksOk) (room : s.margin.replies.length < 32) (r : Reply) :
    (s.queueReply r).LinksOk where
  outputs := ok.outputs
  margin := ⟨by simpa using room, ok.margin.2⟩
  notices := ok.notices

/-- A state with the outputs it had, whose margin channel has as many replies and has read as many packets. -/
theorem State.LinksOk.of_margin {s t : State} (ok : s.LinksOk) (notices : NoticesOk t.notices)
    (replies : t.margin.replies = s.margin.replies := by simp) (read : t.margin.read = s.margin.read := by simp)
    (outputs : t.outputs = s.outputs := by simp) : t.LinksOk where
  outputs := outputs ▸ ok.outputs
  margin := ⟨replies ▸ ok.margin.1, read ▸ ok.margin.2⟩
  notices := notices

theorem State.LinksOk.countTaken {s : State} (ok : s.LinksOk) : s.countTaken.LinksOk := ok.of_margin ok.notices

theorem State.LinksOk.turnAway {s : State} (ok : s.LinksOk) : s.turnAway.LinksOk := by
  refine State.LinksOk.raise ?_ _ _
  exact ok.of_margin ok.notices

theorem State.LinksOk.badPacket {s : State} (ok : s.LinksOk) : s.badPacket.LinksOk := by
  refine State.LinksOk.raise ?_ _ _
  exact ok.of_margin ok.notices

theorem State.LinksOk.stopMargin {s : State} (ok : s.LinksOk) : s.stopMargin.LinksOk := ok.of_margin ok.notices

/-- R158, R159: a command is turned away when 32 replies wait, else answered with one reply. -/
theorem State.LinksOk.considerCommand {s : State} (ok : s.LinksOk) {eff : List Byte → State → Answer}
    (keeps : KeepsLinks eff) (code : Byte) (b : List Byte) : (considerCommand code eff b s).LinksOk := by
  unfold Machine.considerCommand Answer.settle
  split
  · exact ok.turnAway
  · rename_i room
    have executed := keeps.legal b s.countTaken ok.countTaken
    split
    · exact executed
    · exact executed.queueReply ((keeps.replies b s.countTaken).trans_lt (not_le.mp room)) _

theorem State.LinksOk.sendCommand {s : State} (ok : s.LinksOk) {eff : List Byte → State → Answer}
    (keeps : KeepsLinks eff) (code : Byte) (b : List Byte) : (sendCommand code eff b s).LinksOk := by
  unfold Machine.sendCommand
  split
  · exact ok.considerCommand keeps code b
  · exact ok

/-! ## The margin channel (R153 to R158, R171) -/

theorem State.LinksOk.takeRelay {s : State} (ok : s.LinksOk) (dest : Nat) (packet : List Byte) :
    (s.takeRelay dest packet).LinksOk := by
  obtain ⟨frame, joined, raised⟩ := takeRelay_spec dest packet s
  have margin : (s.takeRelay dest packet).margin = s.countTaken.margin := by rw [frame]; rfl
  refine ok.countTaken.of_outputs (fun k => ?_) (raised ▸ noticesOk_raiseSet ok.notices _ _) margin
  rw [joined]
  split
  · exact (ok.outputs k).joinDown packet
  · exact ok.outputs k

theorem State.LinksOk.considerPacket {s : State} (ok : s.LinksOk) (packet : List Byte) :
    (s.considerPacket packet).LinksOk := by
  unfold State.considerPacket
  split
  · exact ok.badPacket
  split
  · exact ok.considerCommand (keepsLinks_getD _) _ _
  split
  · exact ok.takeRelay _ packet
  · exact ok.badPacket

/-- R153: a packet is read while fewer than eight of its margin have been. -/
theorem State.LinksOk.readPacket {s : State} (ok : s.LinksOk) (early : s.margin.read < 8) (bytes : List Byte) :
    (s.readPacket bytes).LinksOk := by
  have counted : ({ s with margin := { s.margin with read := s.margin.read + 1 } } : State).LinksOk :=
    ⟨ok.outputs, ⟨ok.margin.1, early⟩, ok.notices⟩
  unfold State.readPacket
  split
  · exact ok
  split
  · exact ok.stopMargin
  split
  · exact ok.stopMargin.badPacket
  split
  · exact ok.stopMargin.badPacket
  split
  · exact ok.stopMargin.badPacket
  · exact counted.considerPacket _

theorem Margin.read_lt_of_reading {m : Margin} (reading : m.reading = true) : m.read < 8 := by
  simp [Margin.reading] at reading
  exact reading.2

/-! ## The frame start (R146) -/

theorem noticesOk_feedFrame {s : State} (ok : NoticesOk s.notices) : NoticesOk s.feedFrame.notices := by
  unfold State.feedFrame
  split
  · refine noticesOk_raise ?_ _ _
    exact ok
  · exact ok

/-- R89, R137, R147: the notices raised at a frame start, in the order in which its blocks do their work. -/
theorem noticesOk_takeFrame {s : State} (ok : NoticesOk s.notices) (pins : FramePins) :
    NoticesOk (s.takeFrame pins).notices := by
  have before : NoticesOk (s.beforeGroups pins).notices := by
    rw [beforeGroups_notices]
    exact noticesOk_raiseSet (noticesOk_feedFrame ok) _ _
  have groups : NoticesOk (s.beforeGroups pins).groupsFrame.notices := by
    rw [groupsFrame_notices]
    exact noticesOk_raiseFaults
      (noticesOk_raiseSet (noticesOk_raiseSet (noticesOk_raiseSet before _ _) _ _) _ _) _
  rw [takeFrame_notices]
  exact noticesOk_countAvail groups _

theorem State.LinksOk.takeFrame {s : State} (ok : s.LinksOk) (pins : FramePins) : (s.takeFrame pins).LinksOk := by
  have margin : (s.takeFrame pins).margin = s.margin := by rw [takeFrame_frame]
  refine ok.of_outputs (fun k => ?_) (noticesOk_takeFrame ok.notices pins) margin
  rw [takeFrame_outputs]
  exact ((ok.outputs k).atFrame _).afterPlacing

theorem State.LinksOk.frameIf {s : State} (ok : s.LinksOk) (due : Bool) (pins : FramePins) :
    (s.frameIf due pins).LinksOk := by
  unfold State.frameIf
  split
  · exact ok.takeFrame pins
  · exact ok

/-! ## Input frames (R141 to R148) -/

/-- R144, R145: the margin of an accepted frame is read from its first packet. -/
theorem State.LinksOk.accept {s : State} (ok : s.LinksOk) (f : InputFrame) : (s.accept f).LinksOk :=
  ⟨ok.outputs, ⟨ok.margin.1, Nat.zero_le _⟩, ok.notices⟩

theorem State.LinksOk.lock {s : State} (ok : s.LinksOk) (g : Geometry) (period : Nat) (f : InputFrame) :
    (s.lock g period f).LinksOk := by
  refine State.LinksOk.raiseSet (State.LinksOk.accept ?_ f) _ _
  exact ok.of_eq rfl rfl rfl

theorem State.LinksOk.train {s : State} (ok : s.LinksOk) (f : InputFrame) : (s.train f).LinksOk := by
  have trained : ∀ t, (s.setTraining t).LinksOk := fun t => ok.of_eq rfl rfl rfl
  unfold State.train
  dsimp only
  split
  · exact (trained .empty).raiseSet _ _
  split
  · exact trained _
  · split <;> exact trained _
  · split
    · exact (ok.lock _ _ f).frameIf true f.pins
    · exact trained _

theorem State.LinksOk.enterCoasting {s : State} (ok : s.LinksOk) : s.enterCoasting.LinksOk := ok.of_eq rfl rfl rfl

theorem State.LinksOk.checkFrame {s : State} (ok : s.LinksOk) (f : InputFrame) : (s.checkFrame f).LinksOk := by
  unfold State.checkFrame State.discardFrame
  split
  · exact ok.accept f
  · refine State.LinksOk.frameIf ?_ f.overdue f.pins
    exact ok.enterCoasting.of_eq rfl rfl rfl

/-- R62, R148: the photo watch raises PHOTO_WATCH at most. -/
theorem State.LinksOk.completeFrame {s : State} (ok : s.LinksOk) : s.completeFrame.LinksOk := by
  unfold State.completeFrame State.photoWatch
  split
  · refine State.LinksOk.raise ?_ _ _
    exact ok.of_eq rfl rfl rfl
  · exact ok.of_eq rfl rfl rfl

/-! ## The second tick and the return lanes (R110, R129, R167, R173) -/

theorem State.LinksOk.tickClock {s : State} (ok : s.LinksOk) : s.tickClock.LinksOk := by
  refine State.LinksOk.raiseSet ?_ _ _
  exact ok.of_eq rfl rfl rfl

theorem State.LinksOk.hearWord {s : State} (ok : s.LinksOk) (k : Fin 4) (w : AbilityWord) : (s.hearWord k w).LinksOk :=
  (ok.raiseSet _ _).putOutput k ((ok.outputs k).hear w)

/-- R173: a panel packet joins an up queue that has room, or is counted as dropped. -/
theorem State.LinksOk.joinUp {s : State} (ok : s.LinksOk) (k : Fin 4) (p : PanelPacket) : (s.joinUp k p).LinksOk := by
  obtain ⟨link, window, down, up⟩ := ok.outputs k
  unfold State.joinUp
  dsimp only
  split
  · exact ok
  split
  · rename_i room
    have joined : ({ s.outputs[k] with up := s.outputs[k].up ++ [p] } : Output).Ok :=
      ⟨link, window, down, by rw [List.length_append]; exact room⟩
    exact ok.setOutput joined rfl rfl rfl
  · have counted : ({ s.outputs[k] with upDrops := s.outputs[k].upDrops + 1 } : Output).Ok := ⟨link, window, down, up⟩
    refine State.LinksOk.raiseSet ?_ _ _
    exact ok.setOutput counted rfl rfl rfl

/-- R167: an output whose return lane is muted. -/
theorem State.LinksOk.muteLane {s : State} (ok : s.LinksOk) (k : Fin 4) :
    ({ s with outputs := s.outputs.set k { s.outputs[k] with laneMuted := true } } : State).LinksOk := by
  obtain ⟨link, window, queues⟩ := ok.outputs k
  have muted : ({ s.outputs[k] with laneMuted := true } : Output).Ok := ⟨link, window, queues⟩
  exact ok.setOutput muted rfl rfl rfl

/-! ## The return arbiter (R169, R170) -/

/-- R170: a notice sent keeps its source's priority. -/
theorem State.LinksOk.sendNotice {s : State} (ok : s.LinksOk) (i : Fin 14) (detail : Word) :
    (s.sendNotice i detail).LinksOk :=
  ok.of_notices (ok.notices.set (Or.inl rfl) (fun _ => rfl)) rfl rfl

/-- R169: serving a class takes a packet from its queue and moves the pointers. -/
theorem State.LinksOk.serve {s t : State} (ok : s.LinksOk) {c : ReturnClass} (served : s.serve c = some t) :
    t.LinksOk := by
  cases c with
  | reply =>
    simp only [State.serve, State.serveReply] at served
    split at served
    · cases served
    · rename_i r rest waiting
      cases served
      refine ⟨ok.outputs, ⟨?_, ok.margin.2⟩, ok.notices⟩
      have full := ok.margin.1
      rw [waiting] at full
      exact (Nat.le_succ _).trans full
  | relay =>
    simp only [State.serve, State.serveRelay] at served
    split at served
    · cases served
    · rename_i k chosen
      split at served
      · cases served
      · rename_i p rest waiting
        cases served
        obtain ⟨link, window, down, up⟩ := ok.outputs k
        rw [waiting] at up
        have relayed : ({ s.outputs[k] with up := rest } : Output).Ok := ⟨link, window, down, (Nat.le_succ _).trans up⟩
        exact ok.setOutput relayed rfl rfl rfl
  | notice =>
    simp only [State.serve, State.serveNotice] at served
    split at served
    · cases served
    · cases served
      refine State.LinksOk.sendNotice ?_ _ _
      exact ok.of_eq rfl rfl rfl

theorem State.LinksOk.arbitrate {s : State} (ok : s.LinksOk) : s.arbitrate.LinksOk := by
  unfold State.arbitrate
  split
  · exact ok.sendNotice _ _
  · cases served : s.lane.classPointer.cycle.findSome? (fun c => s.serve c) with
    | none => exact ok.of_eq rfl rfl rfl
    | some t =>
      obtain ⟨c, -, from_c⟩ := List.exists_of_findSome?_eq_some served
      exact ok.serve from_c

/-! ## Every step -/

/-- A row that is no command: what its event leaves. -/
theorem State.LinksOk.exec_event {s t : State} (ok : s.LinksOk) {i : Instr} (event : commandOf i = none)
    (ran : exec i s = .next t) : t.LinksOk := by
  cases i <;> try cases event
  all_goals obtain rfl := Host.Outcome.next.inj ran
  case unknownCommand code b =>
    split
    · exact ok.sendCommand keepsLinks_unknown code b
    · exact ok
  case marginPacket bytes =>
    split
    · rename_i reads
      exact ok.readPacket (Margin.read_lt_of_reading (Bool.and_eq_true _ _ ▸ reads).2) bytes
    · exact ok
  case resetPinAsserted => exact linksOk_fullReset _
  case resetPinReleased =>
    split
    · exact linksOk_fullReset _
    · exact ok
  case powerUp => exact linksOk_fullReset s
  case signalFound => exact ok.of_eq rfl rfl rfl
  case signalLost cutShort =>
    split
    · exact ok.stopMargin.badPacket.of_eq rfl rfl rfl
    · exact ok.of_eq rfl rfl rfl
  case inputFrameStart f =>
    split
    · exact ok
    · exact ok.train f
    · exact ok.train f
    · exact ok.checkFrame f
  case missingFrame pins =>
    split
    · exact ok.enterCoasting.frameIf true pins
    · exact ok
  case inputFrameComplete =>
    split
    · exact ok.completeFrame
    · exact ok
  case watchFramesReached n =>
    split
    · exact ok.completeFrame
    · exact ok
  case secondTick =>
    split
    · exact ok.tickClock
    · exact ok
  case abilityWord k bytes =>
    split
    · exact ok
    · split
      · exact ok.hearWord k _
      · exact ok
  case panelPacket k bytes =>
    split
    · exact ok
    · split
      · exact ok.joinUp k _
      · exact ok
  case unknownUnit k kind =>
    split
    · exact ok
    · exact ok.muteLane k
  case returnSlot =>
    split
    · exact ok.arbitrate
    · exact ok
  all_goals exact ok.frameIf _ _

/-- Every row keeps the outputs, the margin channel and the notices legal. -/
theorem State.LinksOk.exec {s t : State} (ok : s.LinksOk) {i : Instr} (ran : exec i s = .next t) : t.LinksOk := by
  cases command : commandOf i with
  | none => exact ok.exec_event command ran
  | some sent =>
    obtain ⟨eff, named, sends⟩ := exec_command command s
    rw [sends] at ran
    cases ran
    exact ok.sendCommand (commandEffect_eq_effectOf command named ▸ keepsLinks_getD _) _ _

theorem State.LinksOk.step {s t : State} (ok : s.LinksOk) (ran : step s = .next t) : t.LinksOk := by
  unfold Machine.step at ran
  split at ran
  · cases ran
    exact ok
  · rename_i rest _
    have waiting : ({ s with pending := rest } : State).LinksOk := ok.of_eq rfl rfl rfl
    exact waiting.exec ran

/-- Settles O59: when a matched ability has a size, and the invariant of the outputs, the margin channel and the notices, kept by
every row and so by every step. -/
theorem stepKeepsLinksAndQueues : Obligations.StepKeepsLinksAndQueues := by
  refine ⟨Output.matchesSize_iff, fun s t ran outputs margin notices => ?_⟩
  have legal : ∀ k : Fin 4, s.outputs[k].Ok := fun k =>
    have ⟨link, window, queues⟩ := outputs k
    ⟨link, window, queues⟩
  have after := State.LinksOk.step ⟨legal, margin, notices⟩ ran
  exact ⟨fun k => ⟨(after.outputs k).link, (after.outputs k).window, (after.outputs k).queues⟩, after.margin, after.notices⟩

end Sys2Proof.Machine
end

section
/-! PROOFS. O5: what a part that is not LOCKED takes, and what it does while the reset pin is asserted (R149, R155, R164, R168). -/

namespace Sys2Proof.Machine

theorem State.not_listening {s : State} (unlocked : ¬ s.Locked) : s.listening = false :=
  Bool.eq_false_iff.mpr (mt s.listening_iff.mp unlocked)

/-- R153, R155: no byte of a margin is read while the feed is not LOCKED. -/
theorem exec_marginPacket_of_not_locked {s : State} (unlocked : ¬ s.Locked) (bytes : List Byte) :
    exec (.marginPacket bytes) s = .next s := by
  have event : exec (.marginPacket bytes) s =
      .next (if s.listening && s.margin.reading then s.readPacket bytes else s) := rfl
  rw [event, State.not_listening unlocked]
  rfl

/-- R168: no return slot comes free while the feed is not LOCKED. -/
theorem exec_returnSlot_of_not_locked {s : State} (unlocked : ¬ s.Locked) : exec .returnSlot s = .next s := by
  have event : exec .returnSlot s = .next (if s.listening then s.arbitrate else s) := rfl
  rw [event, State.not_listening unlocked]
  rfl

/-- Settles O5: the gate before every command, the margin channel and the return slots. -/
theorem nothingTakenUnlessLocked : Obligations.NothingTakenUnlessLocked := by
  rintro c s unlocked (command | ⟨bytes, rfl⟩ | rfl)
  · obtain ⟨⟨code, body⟩, sent⟩ := Option.isSome_iff_exists.mp command
    obtain ⟨eff, -, sends⟩ := exec_command sent s
    rw [sends, sendCommand_not_locked unlocked]
  · exact exec_marginPacket_of_not_locked unlocked bytes
  · exact exec_returnSlot_of_not_locked unlocked

/-! ## While the reset pin is asserted (R164) -/

theorem State.not_locked_of_pin {s : State} (pin : s.resetPin = true) : ¬ s.Locked :=
  fun locked => absurd (pin.symm.trans locked.1) (by decide)

theorem State.frameIf_of_pin {s : State} (pin : s.resetPin = true) (due : Bool) (pins : FramePins) :
    s.frameIf due pins = s := if_neg (by simp [pin])

theorem State.laneOpen_of_pin {s : State} (pin : s.resetPin = true) (k : Fin 4) : s.laneOpen k = false := by
  simp [State.laneOpen, pin]

/-- The rows that act while the reset pin is asserted: the pin, power-up and the detection of the signal. -/
def actsUnderPin : Instr → Bool
  | .resetPinAsserted => true
  | .resetPinReleased => true
  | .powerUp => true
  | .signalFound => true
  | .signalLost _ => true
  | _ => false

/-- R164: every other event leaves a DARK part as it is while the reset pin is asserted. -/
theorem exec_event_of_pin {s : State} (pin : s.resetPin = true) (dark : s.feed.state = .dark) {i : Instr}
    (event : commandOf i = none) (still : actsUnderPin i = false) : exec i s = .next s := by
  have unlocked := State.not_locked_of_pin pin
  have incomplete : s.feed.canComplete = false := by simp [Feed.canComplete, dark]
  cases i <;> try cases event
  case resetPinAsserted | resetPinReleased | powerUp | signalFound | signalLost => cases still
  case unknownCommand code b => simp [exec, execUnknownCommand, sendCommand_not_locked unlocked]
  case marginPacket bytes => exact exec_marginPacket_of_not_locked unlocked bytes
  case returnSlot => exact exec_returnSlot_of_not_locked unlocked
  case inputFrameStart f => simp [exec, execInputFrameStart, dark]
  case missingFrame pins => simp [exec, execMissingFrame, dark]
  case inputFrameComplete => simp [exec, execInputFrameComplete, incomplete]
  case watchFramesReached n => simp [exec, execWatchFramesReached, State.watchReaches, incomplete]
  case secondTick => simp [exec, execSecondTick, pin]
  case abilityWord k bytes =>
    simp only [exec, execAbilityWord, State.laneOpen_of_pin pin, Bool.false_eq_true, if_false]
    split <;> rfl
  case panelPacket k bytes =>
    simp only [exec, execPanelPacket, State.laneOpen_of_pin pin, Bool.false_eq_true, if_false]
    split <;> rfl
  case unknownUnit k kind => simp [exec, execUnknownUnit, pin]
  all_goals exact congrArg Host.Outcome.next (State.frameIf_of_pin pin _ _)

/-- R155, R164: and so does every command. -/
theorem exec_of_pin {s : State} (pin : s.resetPin = true) (dark : s.feed.state = .dark) {i : Instr}
    (still : actsUnderPin i = false) : exec i s = .next s := by
  cases command : commandOf i with
  | none => exact exec_event_of_pin pin dark command still
  | some sent =>
    exact nothingTakenUnlessLocked i s (State.not_locked_of_pin pin) (Or.inl (by rw [command]; rfl))

end Sys2Proof.Machine
end

section
/-! PROOFS. O60: every operation on the feed record keeps it legal (R140 to R148). -/

namespace Sys2Proof.Machine

/-! ## Geometries and intervals (R141) -/

theorem Geometry.supported_iff (g : Geometry) :
    g.supported = true ↔ 320 ≤ g.width ∧ g.width ≤ 7680 ∧ 240 ≤ g.height ∧ g.height ≤ 2160 := decide_eq_true_iff

theorem intervalSupported_iff (i : Nat) : intervalSupported i = true ↔ 16583333 ≤ i ∧ i ≤ 41875000 := decide_eq_true_iff

theorem firstIntervalGood_iff (f : Feed) (i : Nat) :
    firstIntervalGood (f.intervalOf i) = true ↔ f.markerSeen = true ∧ 16583333 ≤ i ∧ i ≤ 41875000 := by
  unfold Feed.intervalOf
  split
  · rename_i seen
    exact ⟨fun good => ⟨seen, (intervalSupported_iff i).mp good⟩, fun timed => (intervalSupported_iff i).mpr timed.2⟩
  · rename_i unseen
    exact iff_of_false Bool.false_ne_true (fun timed => unseen timed.1)

/-! ## The record, by feed state -/

/-- What R140 to R148 ask of the feed record in each feed state. -/
inductive Feed.StateOk (held : Bool) (f : Feed) : Prop where
  | dark (phase : f.state = .dark) (idle : f.training = .empty) (resting : f.coast = 0) (quiet : f.completes = false)
      (silent : held = false → f.signal = false)
  | training (phase : f.state = .training) (resting : f.coast = 0) (quiet : f.completes = false) (signal : f.signal = true)
  | locked (phase : f.state = .locked) (known : f.geometry.isSome = true) (idle : f.training = .empty) (resting : f.coast = 0)
  | coasting (phase : f.state = .coasting) (known : f.geometry.isSome = true) (coast : f.coast ≤ f.coastLimit)
      (quiet : f.completes = false)

theorem Feed.StateOk.of_locked {held : Bool} {f : Feed} (state : f.StateOk held) (locked : f.state = .locked) :
    f.geometry.isSome = true ∧ f.training = .empty ∧ f.coast = 0 := by
  cases state with
  | locked _ known idle resting => exact ⟨known, idle, resting⟩
  | _ phase => cases locked.symm.trans phase

/-- A legal feed record: what holds in every feed state, and what holds in its own. -/
structure Feed.Legal (held : Bool) (f : Feed) : Prop where
  geometry : ∀ g, f.geometry = some g → g.supported = true
  training : f.training.Ok
  limit : 1 ≤ f.coastLimit ∧ f.coastLimit ≤ 65535
  state : f.StateOk held

theorem Feed.legal_of_ok {held : Bool} {f : Feed} (ok : f.Ok held) : f.Legal held := by
  obtain ⟨tuned, geometry, training, idle, resting, low, high, coast, trained, dark, completes⟩ := ok
  have quiet : f.state ≠ .locked → f.completes = false := fun other => Bool.eq_false_iff.mpr (mt completes other)
  have known : f.state = .locked ∨ f.state = .coasting → f.geometry.isSome = true := fun tracking => by
    obtain ⟨g, same, -⟩ := tuned tracking
    rw [same]
    rfl
  refine ⟨geometry, training, ⟨low, high⟩, ?_⟩
  cases phase : f.state with
  | dark => exact .dark phase (idle (.inl phase)) (resting (by simp [phase])) (quiet (by simp [phase])) (dark phase)
  | training => exact .training phase (resting (by simp [phase])) (quiet (by simp [phase])) (trained phase)
  | locked => exact .locked phase (known (.inl phase)) (idle (.inr phase)) (resting (by simp [phase]))
  | coasting => exact .coasting phase (known (.inr phase)) coast (quiet (by simp [phase]))

theorem Feed.Legal.ok {held : Bool} {f : Feed} (legal : f.Legal held) : f.Ok held := by
  obtain ⟨geometry, training, ⟨low, high⟩, state⟩ := legal
  have tuned : f.geometry.isSome = true → ∃ g, f.geometry = some g ∧ g.supported = true := fun known => by
    obtain ⟨g, same⟩ := Option.isSome_iff_exists.mp known
    exact ⟨g, same, geometry g same⟩
  cases state with
  | dark phase idle resting quiet silent =>
    refine ⟨?_, geometry, training, ?_, ?_, low, high, ?_, ?_, fun _ => silent, ?_⟩ <;> simp [phase, idle, resting, quiet]
  | training phase resting quiet signal =>
    refine ⟨?_, geometry, training, ?_, ?_, low, high, ?_, ?_, ?_, ?_⟩ <;> simp [phase, resting, quiet, signal]
  | locked phase known idle resting =>
    refine ⟨fun _ => tuned known, geometry, training, ?_, ?_, low, high, ?_, ?_, ?_, ?_⟩ <;> simp [phase, idle, resting]
  | coasting phase known coast quiet =>
    refine ⟨fun _ => tuned known, geometry, training, ?_, ?_, low, high, coast, ?_, ?_, ?_⟩ <;> simp [phase, quiet]

/-- A record with the geometry and the coast limit it had, and what its feed state asks for. -/
theorem Feed.Legal.of_state {held : Bool} {f n : Feed} (legal : f.Legal held)
    (state : n.StateOk held) (training : n.training.Ok) (geometry : n.geometry = f.geometry)
    (limit : n.coastLimit = f.coastLimit) : n.Legal held where
  geometry := geometry ▸ legal.geometry
  training := training
  limit := limit ▸ legal.limit
  state := state

/-! ## The signal (R143) -/

theorem Feed.found_starts {f : Feed} (dark : f.state = .dark) :
    f.found false = { f with signal := true, markerSeen := false, state := .training, training := .empty } :=
  if_pos ⟨dark, rfl⟩

theorem Feed.found_noted {f : Feed} {held : Bool} (noted : f.state ≠ .dark ∨ held = true) :
    f.found held = { f with signal := true, markerSeen := false } :=
  if_neg fun starts => noted.elim (fun other => other starts.1) (fun pin => absurd (pin.symm.trans starts.2) (by decide))

theorem Feed.Legal.found {held : Bool} {f : Feed} (legal : f.Legal held) : (f.found held).Legal held := by
  cases legal.state with
  | dark phase idle resting quiet =>
    cases held with
    | false =>
      rw [Feed.found_starts phase]
      exact legal.of_state (.training rfl resting quiet rfl) trivial rfl rfl
    | true =>
      rw [Feed.found_noted (.inr rfl)]
      exact legal.of_state (.dark phase idle resting quiet nofun) legal.training rfl rfl
  | training phase resting quiet =>
    rw [Feed.found_noted (.inl (by simp [phase]))]
    exact legal.of_state (.training phase resting quiet rfl) legal.training rfl rfl
  | locked phase known idle resting =>
    rw [Feed.found_noted (.inl (by simp [phase]))]
    exact legal.of_state (.locked phase known idle resting) legal.training rfl rfl
  | coasting phase known coast quiet =>
    rw [Feed.found_noted (.inl (by simp [phase]))]
    exact legal.of_state (.coasting phase known coast quiet) legal.training rfl rfl

theorem Feed.lose_dark {f : Feed} (dark : f.state = .dark) : f.lose = { f with signal := false, completes := false } := by
  rw [Feed.lose, dark]

theorem Feed.lose_training {f : Feed} (trains : f.state = .training) :
    f.lose = { f with signal := false, state := .dark, training := .empty, coast := 0, completes := false } := by
  rw [Feed.lose, trains]

theorem Feed.lose_locked {f : Feed} (locked : f.state = .locked) :
    f.lose = { f with signal := false, completes := false } := by
  rw [Feed.lose, locked]

theorem Feed.lose_coasting {f : Feed} (coasts : f.state = .coasting) :
    f.lose = { f with signal := false, training := .empty, completes := false } := by
  rw [Feed.lose, coasts]

theorem Feed.Legal.lose {held : Bool} {f : Feed} (legal : f.Legal held) : f.lose.Legal held := by
  cases legal.state with
  | dark phase idle resting =>
    rw [Feed.lose_dark phase]
    exact legal.of_state (.dark phase idle resting rfl fun _ => rfl) legal.training rfl rfl
  | training phase =>
    rw [Feed.lose_training phase]
    exact legal.of_state (.dark rfl rfl rfl rfl fun _ => rfl) trivial rfl rfl
  | locked phase known idle resting =>
    rw [Feed.lose_locked phase]
    exact legal.of_state (.locked phase known idle resting) legal.training rfl rfl
  | coasting phase known coast =>
    rw [Feed.lose_coasting phase]
    exact legal.of_state (.coasting phase known coast rfl) trivial rfl rfl

/-! ## Training, the lock and the loss of the lock (R142 to R145) -/

/-- R142: another training run of a feed that trains. -/
theorem Feed.Legal.train {held : Bool} {f : Feed} (legal : f.Legal held) (trains : f.state = .training ∨ f.state = .coasting)
    {run : Training} (good : run.Ok) : ({ f with training := run, markerSeen := true } : Feed).Legal held := by
  refine legal.of_state ?_ good rfl rfl
  cases legal.state with
  | training phase resting quiet signal => exact .training phase resting quiet signal
  | coasting phase known coast quiet => exact .coasting phase known coast quiet
  | _ phase => simp [phase] at trains

/-- R144: the lock of a supported geometry. -/
theorem Feed.Legal.lock {held : Bool} {f : Feed} (legal : f.Legal held) {g : Geometry} (supported : g.supported = true)
    (period : Nat) :
    ({ f with state := .locked, geometry := some g, period := period, coast := 0, training := .empty } : Feed).Legal held where
  geometry _ same := Option.some.inj same ▸ supported
  training := trivial
  limit := legal.limit
  state := .locked rfl rfl rfl rfl

/-- R145: the entry to COASTING from LOCKED. -/
theorem Feed.Legal.coast {held : Bool} {f : Feed} (legal : f.Legal held) (locked : f.state = .locked) (seen : Bool) :
    ({ f with state := .coasting, lost := true, coast := 0, training := .empty, completes := false,
              markerSeen := seen } : Feed).Legal held := by
  obtain ⟨known, -⟩ := legal.state.of_locked locked
  exact legal.of_state (.coasting rfl known (Nat.zero_le _) rfl) trivial rfl rfl

/-- R144, R145, R148, R150: a LOCKED record, whatever becomes of its pictures and of its coast limit. -/
theorem Feed.Legal.of_locked {held : Bool} {f n : Feed} (legal : f.Legal held) (locked : f.state = .locked)
    (limit : 1 ≤ n.coastLimit ∧ n.coastLimit ≤ 65535) (state : n.state = f.state) (geometry : n.geometry = f.geometry)
    (training : n.training = f.training) (coast : n.coast = f.coast) : n.Legal held where
  geometry := geometry ▸ legal.geometry
  training := training ▸ legal.training
  limit := limit
  state := by
    obtain ⟨known, idle, resting⟩ := legal.state.of_locked locked
    exact .locked (state.trans locked) (geometry ▸ known) (training.trans idle) (coast.trans resting)

/-! ## The frame start and the full reset (R146, R147, R164) -/

/-- R147: the frame start that ends the coast. -/
theorem Feed.atFrame_ends {f : Feed} (ends : f.coastEnds = true) :
    f.atFrame =
      { f with
        frameNumber := f.frameNumber + 1, coast := 0, training := .empty
        state := if f.signal then .training else .dark } := if_pos ends

/-- R147: a frame start within the coast limit counts one coasted frame. -/
theorem Feed.atFrame_coasts {f : Feed} (coasting : f.state = .coasting) (within : f.coast + 1 ≤ f.coastLimit) :
    f.atFrame = { f with frameNumber := f.frameNumber + 1, coast := f.coast + 1 } := by
  have goesOn : ¬ f.coastEnds = true := fun ends => absurd (f.coastEnds_iff.mp ends).2 (by omega)
  exact (if_neg goesOn).trans (if_pos coasting)

/-- R146: a frame start in the other feed states counts the frame alone. -/
theorem Feed.atFrame_counts {f : Feed} (other : f.state ≠ .coasting) :
    f.atFrame = { f with frameNumber := f.frameNumber + 1 } := by
  have goesOn : ¬ f.coastEnds = true := fun ends => other (f.coastEnds_iff.mp ends).1
  exact (if_neg goesOn).trans (if_neg other)

theorem Feed.Legal.atFrame {held : Bool} {f : Feed} (legal : f.Legal held) : f.atFrame.Legal held := by
  cases legal.state with
  | dark phase idle resting quiet silent =>
    rw [Feed.atFrame_counts (by simp [phase])]
    exact legal.of_state (.dark phase idle resting quiet silent) legal.training rfl rfl
  | training phase resting quiet signal =>
    rw [Feed.atFrame_counts (by simp [phase])]
    exact legal.of_state (.training phase resting quiet signal) legal.training rfl rfl
  | locked phase known idle resting =>
    rw [Feed.atFrame_counts (by simp [phase])]
    exact legal.of_state (.locked phase known idle resting) legal.training rfl rfl
  | coasting phase known coast quiet =>
    by_cases within : f.coast + 1 ≤ f.coastLimit
    · rw [Feed.atFrame_coasts phase within]
      exact legal.of_state (.coasting phase known within quiet) legal.training rfl rfl
    · rw [Feed.atFrame_ends (f.coastEnds_iff.mpr ⟨phase, not_le.mp within⟩)]
      refine legal.of_state ?_ trivial rfl rfl
      by_cases signal : f.signal = true
      · exact .training (if_pos signal) rfl quiet signal
      · exact .dark (if_neg signal) rfl rfl quiet fun _ => Bool.eq_false_iff.mpr signal

/-- R140, R143, R164: the feed of a full reset. -/
theorem legal_resetFeed (signal held : Bool) : (resetFeed signal held).Legal held where
  geometry _ none := nomatch none
  training := trivial
  limit := ⟨Nat.le_of_ble_eq_true rfl, Nat.le_of_ble_eq_true rfl⟩
  state := by
    cases signal <;> cases held
    case true.false => exact .training rfl rfl rfl rfl
    case true.true => exact .dark rfl rfl rfl rfl nofun
    all_goals exact .dark rfl rfl rfl rfl fun _ => rfl

end Sys2Proof.Machine
end

section
/-! PROOFS. O60, continued: every command and every event keeps the feed record legal while the reset pin is not asserted. -/

namespace Sys2Proof.Machine

/-! ## The invariant of a part that runs -/

/-- R140, R164: the reset pin is not asserted and the feed record is legal. -/
structure State.RunsOk (s : State) : Prop where
  released : s.resetPin = false
  feed : s.feed.Legal false

/-- A state with the reset pin as it was and a legal feed record. -/
theorem State.RunsOk.of_feed {s t : State} (ok : s.RunsOk) (feed : t.feed.Legal false)
    (pin : t.resetPin = s.resetPin := by simp) : t.RunsOk := ⟨pin.trans ok.released, feed⟩

/-- A state with the reset pin and the feed record as they were. -/
theorem State.RunsOk.of_eq {s t : State} (ok : s.RunsOk) (feed : t.feed = s.feed := by simp)
    (pin : t.resetPin = s.resetPin := by simp) : t.RunsOk := ok.of_feed (feed ▸ ok.feed) pin

/-- R163, R164: a full reset while the reset pin is not asserted. -/
theorem runsOk_fullReset {s : State} (released : s.resetPin = false) : s.fullReset.RunsOk where
  released := released
  feed := released ▸ legal_resetFeed s.feed.signal s.resetPin

/-! ## Commands -/

/-- The effect keeps the feed record legal when it is taken, which it is in LOCKED alone. -/
def KeepsRunning (eff : List Byte → State → Answer) : Prop :=
  ∀ b s, s.RunsOk → s.feed.state = .locked → (eff b s).state.RunsOk

theorem keepsRunning_restart : KeepsRunning restart := by
  intro b s ok _
  unfold restart
  split
  · exact ok
  · exact runsOk_fullReset ok.released

/-- R150: the coast limit of FEED PUT is 1 to 65535. -/
theorem keepsRunning_feedPut : KeepsRunning feedPut := by
  intro b s ok locked
  unfold feedPut
  split
  · exact ok
  split
  · exact ok
  · rename_i set
    have top := u16_lt b 0
    refine ok.of_feed (ok.feed.of_locked locked ⟨?_, ?_⟩ rfl rfl rfl rfl) rfl <;> dsimp only [Answer.done_state] <;> omega

/-- R178: STATUS clears the feed-lost latch. -/
theorem keepsRunning_status : KeepsRunning status := by
  intro b s ok locked
  unfold status
  split
  · exact ok
  · exact ok.of_feed (ok.feed.of_locked locked ok.feed.limit rfl rfl rfl rfl) rfl

theorem rebindSlot_feed (n : Nat) (r : Option SlotRecord) (s : State) : (s.rebindSlot n r).feed = s.feed := by
  rw [rebindSlot_frame]

/-- R165: RESTART resets the feed, FEED PUT writes its coast limit and STATUS clears its latch; no other command of the index
writes the feed. -/
theorem keepsRunning_commandEffect {code : Byte} {eff : List Byte → State → Answer} (h : commandEffect code = some eff) :
    KeepsRunning eff := by
  unfold commandEffect at h
  split at h <;> cases h
  -- The cases stand in the order of the index.
  case h_1 => exact keepsRunning_restart
  case h_30 => exact keepsRunning_feedPut
  case h_32 => exact keepsRunning_status
  all_goals
    intro b s ok _
    simp only [itemPut, itemDrop, itemGet, itemList, pricePut, formatPut, formatGet, formatMode, slotPut, slotDrop, slotGet, mark,
      availList, linePut, lineGet, groupPut, groupGet, flipCommand, hold, release, holdOrRelease, clockSet, resync, clockGet,
      schedulePut, scheduleDrop, scheduleGet, outputPut, outputGet, panelRelink, feedGet, noticePut,
      artOpen, Machine.artOpenAt, artWrite, artClose, artDrop, artGet, State.putItem]
    repeat' split
  all_goals exact ok.of_eq (by simp [rebindSlot_feed]) (by simp [rebindSlot_others])

theorem keepsRunning_unknown : KeepsRunning unknown := fun _ _ ok _ => ok

theorem keepsRunning_getD (code : Byte) : KeepsRunning ((commandEffect code).getD unknown) := by
  cases named : commandEffect code with
  | none => exact keepsRunning_unknown
  | some eff => exact keepsRunning_commandEffect named

theorem State.RunsOk.considerCommand {s : State} (ok : s.RunsOk) (locked : s.feed.state = .locked)
    {eff : List Byte → State → Answer} (keeps : KeepsRunning eff) (code : Byte) (b : List Byte) :
    (considerCommand code eff b s).RunsOk := by
  unfold Machine.considerCommand Answer.settle
  split
  · exact ok.of_eq
  · have executed := keeps b s.countTaken ok.of_eq locked
    split
    · exact executed
    · exact executed.of_eq

theorem State.RunsOk.sendCommand {s : State} (ok : s.RunsOk) {eff : List Byte → State → Answer}
    (keeps : KeepsRunning eff) (code : Byte) (b : List Byte) : (sendCommand code eff b s).RunsOk := by
  unfold Machine.sendCommand
  split
  · rename_i listens
    exact ok.considerCommand (s.listening_iff.mp listens).2 keeps code b
  · exact ok

/-! ## The margin channel (R153 to R158, R171) -/

theorem State.RunsOk.takeRelay {s : State} (ok : s.RunsOk) (dest : Nat) (packet : List Byte) :
    (s.takeRelay dest packet).RunsOk := by
  have frame := (takeRelay_spec dest packet s).1
  rw [frame]
  exact ok.of_eq

theorem State.RunsOk.considerPacket {s : State} (ok : s.RunsOk) (locked : s.feed.state = .locked) (packet : List Byte) :
    (s.considerPacket packet).RunsOk := by
  unfold State.considerPacket
  split
  · exact ok.of_eq
  split
  · exact ok.considerCommand locked (keepsRunning_getD _) _ _
  split
  · exact ok.takeRelay _ packet
  · exact ok.of_eq

theorem State.RunsOk.cutPacket {s : State} (ok : s.RunsOk) : s.cutPacket.RunsOk := by
  unfold State.cutPacket
  exact ok.of_eq

theorem State.RunsOk.readPacket {s : State} (ok : s.RunsOk) (locked : s.feed.state = .locked) (bytes : List Byte) :
    (s.readPacket bytes).RunsOk := by
  unfold State.readPacket
  split
  · exact ok
  split
  · exact ok.of_eq
  split
  · exact ok.cutPacket
  split
  · exact ok.cutPacket
  split
  · exact ok.cutPacket
  · have counted : ({ s with margin := { s.margin with read := s.margin.read + 1 } } : State).RunsOk := ok.of_eq
    exact counted.considerPacket locked _

/-! ## The frame start and the input frames (R141 to R148) -/

theorem State.RunsOk.frameIf {s : State} (ok : s.RunsOk) (due : Bool) (pins : FramePins) : (s.frameIf due pins).RunsOk := by
  rw [frameIf_due ok.released]
  split
  · rw [takeFrame_frame]
    exact ok.of_feed ok.feed.atFrame
  · exact ok

/-- R144: the lock of a supported geometry. -/
theorem State.RunsOk.lock {s : State} (ok : s.RunsOk) {g : Geometry} (supported : g.supported = true) (period : Nat)
    (f : InputFrame) : (s.lock g period f).RunsOk := by
  have locked := ok.feed.lock supported period
  unfold State.lock State.accept
  rw [State.raiseSet_eq]
  exact ok.of_feed (locked.of_locked rfl locked.limit rfl rfl rfl rfl) rfl

/-- R142: the training run of a feed that trains. -/
theorem State.RunsOk.train {s : State} (ok : s.RunsOk) (trains : s.feed.state = .training ∨ s.feed.state = .coasting)
    (f : InputFrame) : (s.train f).RunsOk := by
  have trained : ∀ run : Training, run.Ok → (s.setTraining run).RunsOk :=
    fun run good => ok.of_feed (ok.feed.train trains good) rfl
  unfold State.train
  dsimp only
  split
  · exact (trained .empty trivial).of_eq
  · rename_i supported
    have supported : (Geometry.mk f.width f.height).supported = true := by simpa using supported
    split
    · exact trained (.one _) supported
    · split
      · rename_i timed
        exact trained (.two _ _) ⟨supported, (intervalSupported_iff _).mpr ((firstIntervalGood_iff _ _).mp timed.2).2⟩
      · exact trained (.one _) supported
    · split
      · exact (ok.lock supported _ f).frameIf true f.pins
      · exact trained (.one _) supported

theorem State.RunsOk.enterCoasting {s : State} (ok : s.RunsOk) (locked : s.feed.state = .locked) : s.enterCoasting.RunsOk :=
  ok.of_feed (ok.feed.coast locked s.feed.markerSeen) rfl

/-- R145: an input frame start in LOCKED. -/
theorem State.RunsOk.checkFrame {s : State} (ok : s.RunsOk) (locked : s.feed.state = .locked) (f : InputFrame) :
    (s.checkFrame f).RunsOk := by
  unfold State.checkFrame State.discardFrame
  split
  · exact ok.of_feed (ok.feed.of_locked locked ok.feed.limit rfl rfl rfl rfl) rfl
  · refine State.RunsOk.frameIf ?_ f.overdue f.pins
    exact ok.of_feed (ok.feed.coast locked true) rfl

theorem Feed.locked_of_canComplete {f : Feed} (complete : f.canComplete = true) : f.state = .locked := by
  simp only [Feed.canComplete, Bool.and_eq_true, beq_iff_eq] at complete
  exact complete.1.1

/-- R148: the completion of a frame. -/
theorem State.RunsOk.completeFrame {s : State} (ok : s.RunsOk) (locked : s.feed.state = .locked) : s.completeFrame.RunsOk := by
  have completed : ({ s.feed with lastGood := some s.feed.livePicture, completes := false } : Feed).Legal false :=
    ok.feed.of_locked locked ok.feed.limit rfl rfl rfl rfl
  unfold State.completeFrame State.photoWatch
  split <;> exact ok.of_feed (by simpa using completed)

/-! ## The return lanes and the return arbiter (R167 to R173) -/

/-- R173: the blocks that a panel packet can change. -/
theorem joinUp_frame (k : Fin 4) (p : PanelPacket) (s : State) :
    s.joinUp k p = { s with outputs := (s.joinUp k p).outputs, notices := (s.joinUp k p).notices } := by
  unfold State.joinUp
  dsimp only
  split
  · rfl
  split
  · rfl
  · rw [State.raiseSet_eq]

/-- R169: the blocks that serving a class can change. -/
theorem serve_frame {s t : State} {c : ReturnClass} (served : s.serve c = some t) :
    t = { s with margin := t.margin, outputs := t.outputs, lane := t.lane, notices := t.notices } := by
  cases c with
  | reply =>
    simp only [State.serve, State.serveReply] at served
    split at served <;> cases served
    rfl
  | relay =>
    simp only [State.serve, State.serveRelay] at served
    split at served
    · cases served
    · split at served <;> cases served
      rfl
  | notice =>
    simp only [State.serve, State.serveNotice] at served
    split at served <;> cases served
    rfl

/-- R169: the blocks that a return slot can change. -/
theorem arbitrate_frame (s : State) :
    s.arbitrate =
      { s with
        margin := s.arbitrate.margin, outputs := s.arbitrate.outputs, lane := s.arbitrate.lane
        notices := s.arbitrate.notices } := by
  unfold State.arbitrate
  split
  · rfl
  · cases served : s.lane.classPointer.cycle.findSome? (fun c => s.serve c) with
    | none => rfl
    | some t =>
      obtain ⟨c, -, from_c⟩ := List.exists_of_findSome?_eq_some served
      exact serve_frame from_c

/-! ## Every row but the reset pin's assertion -/

/-- A row that is no command: what its event leaves. -/
theorem State.RunsOk.exec_event {s t : State} (ok : s.RunsOk) {i : Instr} (event : commandOf i = none)
    (free : i ≠ .resetPinAsserted) (ran : exec i s = .next t) : t.RunsOk := by
  cases i <;> try cases event
  all_goals obtain rfl := Host.Outcome.next.inj ran
  case resetPinAsserted => exact absurd rfl free
  case unknownCommand code b =>
    split
    · exact ok.sendCommand keepsRunning_unknown code b
    · exact ok
  case marginPacket bytes =>
    split
    · rename_i reads
      have listens := (Bool.and_eq_true _ _ ▸ reads).1
      exact ok.readPacket (s.listening_iff.mp listens).2 bytes
    · exact ok
  case resetPinReleased =>
    split
    · exact runsOk_fullReset rfl
    · exact ok
  case powerUp => exact runsOk_fullReset ok.released
  case signalFound => exact ok.of_feed (ok.released ▸ ok.feed.found) rfl
  case signalLost cutShort =>
    split
    · exact ok.cutPacket.of_feed ok.cutPacket.feed.lose rfl
    · exact ok.of_feed ok.feed.lose rfl
  case inputFrameStart f =>
    split
    · exact ok
    · rename_i trains
      exact ok.train (.inl trains) f
    · rename_i coasts
      exact ok.train (.inr coasts) f
    · rename_i locked
      exact ok.checkFrame locked f
  case missingFrame pins =>
    split
    · rename_i locked
      exact (ok.enterCoasting locked).frameIf true pins
    · exact ok
  case inputFrameComplete =>
    split
    · rename_i complete
      exact ok.completeFrame (Feed.locked_of_canComplete complete)
    · exact ok
  case watchFramesReached n =>
    split
    · rename_i reached
      simp only [State.watchReaches, Bool.and_eq_true] at reached
      exact ok.completeFrame (Feed.locked_of_canComplete reached.1.1)
    · exact ok
  case secondTick =>
    split
    · exact ok.of_eq (by simp [State.tickClock]) (by simp [State.tickClock])
    · exact ok
  case abilityWord k bytes =>
    split
    · exact ok
    · split
      · exact ok.of_eq (by simp [State.hearWord]) (by simp [State.hearWord])
      · exact ok
  case panelPacket k bytes =>
    split
    · exact ok
    · split
      · rw [joinUp_frame]
        exact ok.of_eq
      · exact ok
  case unknownUnit k kind =>
    split
    · exact ok
    · exact ok.of_eq
  case returnSlot =>
    split
    · rw [arbitrate_frame]
      exact ok.of_eq
    · exact ok
  all_goals exact ok.frameIf _ _

/-- Every row but the reset pin's assertion keeps the feed record legal and the reset pin not asserted. -/
theorem State.RunsOk.exec {s t : State} (ok : s.RunsOk) {i : Instr} (free : i ≠ .resetPinAsserted)
    (ran : exec i s = .next t) : t.RunsOk := by
  cases command : commandOf i with
  | none => exact ok.exec_event command free ran
  | some sent =>
    obtain ⟨eff, named, sends⟩ := exec_command command s
    rw [sends] at ran
    cases ran
    exact ok.sendCommand (commandEffect_eq_effectOf command named ▸ keepsRunning_getD _) _ _

end Sys2Proof.Machine
end

section
/-! PROOFS. O60, concluded: the reset values under the reset pin, and the step (R164). -/

namespace Sys2Proof.Machine

/-! ## The reset values under the reset pin -/

theorem heldAtReset_of_released {s : State} (released : s.resetPin = false) : HeldAtReset s :=
  fun pin => absurd (released.symm.trans pin) (by decide)

/-- R164: the feed of a held part is the one after a full reset, but for the signal. -/
theorem HeldAtReset.feed {s : State} (held : HeldAtReset s) (pin : s.resetPin = true) :
    s.feed = { Feed.reset with signal := s.feed.signal } := congrArg State.feed (held pin)

/-- R164: the detection of the signal goes on. -/
theorem HeldAtReset.detect {s : State} (held : HeldAtReset s) (pin : s.resetPin = true) (signal : Bool) :
    HeldAtReset { s with feed := { Feed.reset with signal := signal } } := fun _ =>
  congrArg (fun x : State => { x with feed := { Feed.reset with signal := signal } }) (held pin)

/-- The commands that wait are outside the part. -/
theorem HeldAtReset.withPending {s : State} (held : HeldAtReset s) (rest : List Instr) :
    HeldAtReset { s with pending := rest } := fun pin => congrArg (fun x : State => { x with pending := rest }) (held pin)

theorem resetFeed_held (signal : Bool) : resetFeed signal true = { Feed.reset with signal := signal } := by
  cases signal <;> rfl

theorem heldAtReset_fullReset (s : State) : HeldAtReset s.fullReset := by
  intro pin
  have pin : s.resetPin = true := pin
  have fed : s.fullReset.feed = { Feed.reset with signal := s.feed.signal } := by
    rw [← resetFeed_held, ← pin]
    rfl
  rw [fed]
  unfold State.fullReset
  rw [pin, resetFeed_held]

/-! ## Every step -/

/-- R140, R164: the feed record is legal, and the part is held at its reset values while the reset pin is asserted. -/
structure State.FeedAndResetOk (s : State) : Prop where
  feed : s.feed.Legal s.resetPin
  held : HeldAtReset s

theorem feedAndResetOk_fullReset (s : State) : s.fullReset.FeedAndResetOk :=
  ⟨legal_resetFeed s.feed.signal s.resetPin, heldAtReset_fullReset s⟩

theorem State.RunsOk.feedAndResetOk {s : State} (ok : s.RunsOk) : s.FeedAndResetOk :=
  ⟨ok.released ▸ ok.feed, heldAtReset_of_released ok.released⟩

/-- R143, R164: a held part with the signal newly detected. -/
theorem State.FeedAndResetOk.detect {s : State} (ok : s.FeedAndResetOk) (pin : s.resetPin = true) {feed : Feed} {signal : Bool}
    (detected : feed = { Feed.reset with signal := signal }) : ({ s with feed := feed } : State).FeedAndResetOk := by
  subst detected
  refine ⟨?_, ok.held.detect pin signal⟩
  dsimp only
  rw [pin, ← resetFeed_held]
  exact legal_resetFeed signal true

theorem State.FeedAndResetOk.dark {s : State} (ok : s.FeedAndResetOk) (pin : s.resetPin = true) : s.feed.state = .dark := by
  rw [ok.held.feed pin]
  rfl

/-- R143, R164: what acts while the reset pin is asserted. -/
theorem State.FeedAndResetOk.exec_acting {s t : State} (ok : s.FeedAndResetOk) (pin : s.resetPin = true) {i : Instr}
    (acts : actsUnderPin i = true) (ran : exec i s = .next t) : t.FeedAndResetOk := by
  cases i <;> try cases acts
  all_goals obtain rfl := Host.Outcome.next.inj ran
  case resetPinAsserted => exact feedAndResetOk_fullReset _
  case resetPinReleased =>
    rw [if_pos pin]
    exact feedAndResetOk_fullReset _
  case powerUp => exact feedAndResetOk_fullReset s
  case signalFound =>
    refine ok.detect pin (signal := true) ?_
    rw [Feed.found_noted (.inr pin), ok.held.feed pin]
    rfl
  case signalLost cutShort =>
    have uncut : (cutShort && s.listening && s.margin.reading) = false := by
      simp [State.not_listening (State.not_locked_of_pin pin)]
    rw [uncut]
    refine ok.detect pin (signal := false) ?_
    rw [if_neg Bool.false_ne_true, Feed.lose_dark (ok.dark pin), ok.held.feed pin]
    rfl

/-- R164: a held part. -/
theorem State.FeedAndResetOk.exec_of_pin {s t : State} (ok : s.FeedAndResetOk) (pin : s.resetPin = true) {i : Instr}
    (ran : exec i s = .next t) : t.FeedAndResetOk := by
  cases acts : actsUnderPin i with
  | false =>
    obtain rfl := Host.Outcome.next.inj ((Machine.exec_of_pin pin (ok.dark pin) acts).symm.trans ran)
    exact ok
  | true => exact ok.exec_acting pin acts ran

theorem State.FeedAndResetOk.exec {s t : State} (ok : s.FeedAndResetOk) {i : Instr} (ran : exec i s = .next t) :
    t.FeedAndResetOk := by
  cases pin : s.resetPin with
  | true => exact ok.exec_of_pin pin ran
  | false =>
    by_cases asserts : i = .resetPinAsserted
    · subst asserts
      obtain rfl := Host.Outcome.next.inj ran
      exact feedAndResetOk_fullReset _
    · have runs : s.RunsOk := ⟨pin, pin ▸ ok.feed⟩
      exact (runs.exec asserts ran).feedAndResetOk

theorem State.FeedAndResetOk.step {s t : State} (ok : s.FeedAndResetOk) (ran : step s = .next t) : t.FeedAndResetOk := by
  unfold Machine.step at ran
  split at ran
  · cases ran
    exact ok
  · rename_i rest _
    have waiting : ({ s with pending := rest } : State).FeedAndResetOk := ⟨ok.feed, ok.held.withPending rest⟩
    exact waiting.exec ran

/-- Settles O60: the supported geometries and intervals, and the invariant of the feed and of the held part, kept by every row
and so by every step. -/
theorem stepKeepsFeedAndReset : Obligations.StepKeepsFeedAndReset := by
  refine ⟨Geometry.supported_iff, intervalSupported_iff, fun s t ran feed held => ?_⟩
  have after := State.FeedAndResetOk.step ⟨Feed.legal_of_ok feed, held⟩ ran
  exact ⟨after.feed.ok, after.held⟩

end Sys2Proof.Machine
end

section
/-! PROOFS. O43: FEED PUT, FEED GET, and the signal found and lost (R143, R150, R151, R153, R156). -/

namespace Sys2Proof.Machine

/-! ## FEED PUT and FEED GET (R150, R151) -/

theorem exec_feedPut {s : State} (taken : s.Takes) (b : List Byte) :
    exec (.feedPut b) s = .next ((feedPut b s.countTaken).settle 0x80) := congrArg Host.Outcome.next (sendCommand_takes taken)

theorem exec_feedGet {s : State} (taken : s.Takes) (b : List Byte) :
    exec (.feedGet b) s = .next ((feedGet b s.countTaken).settle 0x81) := congrArg Host.Outcome.next (sendCommand_takes taken)

theorem feedPut_badLength {b : List Byte} (length : b.length ≠ 2) (s : State) : feedPut b s = .refuse s .badLength :=
  if_pos length

theorem feedPut_zero {b : List Byte} (length : b.length = 2) (zero : u16 b 0 = 0) (s : State) :
    feedPut b s = .refuse s .badField := by
  simp [feedPut, length, zero]

theorem feedPut_sets {b : List Byte} (length : b.length = 2) (positive : u16 b 0 ≠ 0) (s : State) :
    feedPut b s = .done { s with feed := { s.feed with coastLimit := u16 b 0 } } (put16 (u16 b 0)) := by
  simp [feedPut, length, positive]

theorem feedGet_badLength {b : List Byte} (length : b.length ≠ 0) (s : State) : feedGet b s = .refuse s .badLength :=
  if_pos length

theorem feedGet_answers {b : List Byte} (length : b.length = 0) (s : State) : feedGet b s = .done s (feedBody s.feed) :=
  if_neg (not_not.mpr length)

/-- R151: the body of FEED GET in LOCKED, the one state in which it is taken. -/
theorem feedBody_locked {f : Feed} (locked : f.state = .locked) {g : Geometry} (known : f.geometry = some g) :
    feedBody f =
      [2] ++ put16 f.coastLimit ++ put16 g.width ++ put16 g.height ++ put32 f.period ++ put32 f.frameNumber.toNat := by
  rw [feedBody, locked, known]
  rfl

/-! ## The signal (R143, R153, R156) -/

theorem exec_signalFound (s : State) : exec .signalFound s = .next { s with feed := s.feed.found s.resetPin } := rfl

theorem State.reads_iff (s : State) : s.Reads ↔ (s.listening && s.margin.reading) = true := by
  simp [State.Reads, Margin.reading, s.listening_iff]

/-- R153, R156: a packet that the loss cuts short stops the reading of its margin and counts as bad. -/
theorem cutPacket_eq (s : State) :
    s.cutPacket =
      State.raise .marginFault (addFaults 1 0)
        { s with margin := { s.margin with bad := s.margin.bad + 1, stopped := true } } := rfl

theorem exec_signalLost_eq (cut : Bool) (s : State) :
    exec (.signalLost cut) s =
      .next (let s1 := if cut && s.listening && s.margin.reading then s.cutPacket else s
        { s1 with feed := s1.feed.lose }) := rfl

/-- R143: the signal is lost while a packet of the margin is read. -/
theorem exec_signalLost_cuts {s : State} (reads : s.Reads) :
    exec (.signalLost true) s = .next { s.cutPacket with feed := s.feed.lose } := by
  rw [exec_signalLost_eq, Bool.true_and, if_pos (s.reads_iff.mp reads)]
  simp [State.cutPacket]

/-- R143: the signal is lost while no packet is read. -/
theorem exec_signalLost_between {cut : Bool} {s : State} (between : cut = false ∨ ¬ s.Reads) :
    exec (.signalLost cut) s = .next { s with feed := s.feed.lose } := by
  have uncut : ¬ (cut && s.listening && s.margin.reading) = true := by
    rw [Bool.and_assoc, Bool.and_eq_true, ← s.reads_iff]
    rintro ⟨rfl, reads⟩
    exact between.elim nofun (fun idle => idle reads)
  rw [exec_signalLost_eq, if_neg uncut]

/-- R143, R153: the state that a loss leaves, but for the feed, is the given one. -/
theorem exec_signalLost {cut : Bool} {s t : State}
    (cuts : cut = true → s.Reads →
      t = State.raise .marginFault (addFaults 1 0)
        { s with margin := { s.margin with bad := s.margin.bad + 1, stopped := true } })
    (between : cut = false ∨ ¬ s.Reads → t = s) :
    exec (.signalLost cut) s = .next { t with feed := s.feed.lose } := by
  by_cases idle : cut = false ∨ ¬ s.Reads
  · rw [between idle, exec_signalLost_between idle]
  · obtain ⟨cutting, reads⟩ := not_or.mp idle
    obtain rfl : cut = true := by simpa using cutting
    rw [exec_signalLost_cuts (not_not.mp reads), cutPacket_eq, cuts rfl (not_not.mp reads)]

/-- Settles O43: the refusals of both commands, the coast limit set and the feed read; then the signal found and lost, feed state
by feed state. -/
theorem feedCommandsAndSignal : Obligations.FeedCommandsAndSignal := by
  refine ⟨fun b s taken => ⟨fun length => ?_, fun length zero => ?_, fun length positive => ?_, fun length => ?_,
    fun length g known => ?_⟩, fun s => ⟨fun released dark => ?_, fun noted => ?_, fun cut t cuts between => ?_⟩⟩
  · rw [exec_feedPut taken, feedPut_badLength length, settle_refuse]
  · rw [exec_feedPut taken, feedPut_zero length zero, settle_refuse]
  · rw [exec_feedPut taken, feedPut_sets length positive]
    rfl
  · rw [exec_feedGet taken, feedGet_badLength length, settle_refuse]
  · rw [exec_feedGet taken, feedGet_answers length, settle_done, ← feedBody_locked taken.1.2 known]
    rfl
  · rw [exec_signalFound, released, Feed.found_starts dark]
  · rw [exec_signalFound, Feed.found_noted noted]
  · rw [exec_signalLost cuts between]
    refine ⟨fun trains => by rw [Feed.lose_training trains], fun coasts => by rw [Feed.lose_coasting coasts], ?_⟩
    rintro (locked | dark)
    · rw [Feed.lose_locked locked]
    · rw [Feed.lose_dark dark]

end Sys2Proof.Machine
end

section
/-! PROOFS. O47: a frame start: the feed, the outputs, the line samples and the frame that opens (R64, R125, R138, R146 to R148). -/

namespace Sys2Proof.Machine

/-! ## The canvas (R125, R148) -/

theorem Feed.canvas_standby {f : Feed} (standby : f.state = .dark ∨ f.state = .training) : f.canvas = none := by
  rcases standby with phase | phase <;> rw [Feed.canvas, phase]

theorem Feed.canvas_locked {f : Feed} (locked : f.state = .locked) {g : Geometry} (known : f.geometry = some g) :
    f.canvas = some { geometry := g, live := f.live, back := f.lastGood } := by
  rw [Feed.canvas, locked, known]
  rfl

theorem Feed.canvas_coasting {f : Feed} (coasts : f.state = .coasting) {g : Geometry} (known : f.geometry = some g) :
    f.canvas = some { geometry := g, live := [], back := f.lastGood } := by
  rw [Feed.canvas, coasts, known]
  rfl

/-- R146, R147: a frame start counts frames and ends a coast; the canvas it leaves as it is. -/
theorem Feed.atFrame_pictures (f : Feed) :
    f.atFrame.geometry = f.geometry ∧ f.atFrame.live = f.live ∧ f.atFrame.lastGood = f.lastGood := by
  unfold Feed.atFrame
  split
  · exact ⟨rfl, rfl, rfl⟩
  · split <;> exact ⟨rfl, rfl, rfl⟩

/-! ## The statement -/

/-- Settles O47: the blocks that change, the feed by its state, each output and line, and the frame that opens. -/
theorem frameStartTaken : Obligations.FrameStartTaken := by
  intro pins s released
  obtain ⟨geometry, live, lastGood⟩ := s.feed.atFrame_pictures
  have feed := takeFrame_feed pins s
  have blocks := takeFrame_frame pins s
  rw [← feed] at blocks
  refine ⟨s.takeFrame pins, exec_frameStart released, blocks, ?_⟩
  rw [feed]
  refine ⟨Feed.atFrame_counts, fun coasts => ⟨Feed.atFrame_coasts coasts, fun past => ?_⟩, takeFrame_outputs pins s,
    takeFrame_lines pins s, _, takeFrame_openFrame pins s, rfl, fun k => getElem_tab _ _ _, Feed.canvas_standby,
    fun g known => ⟨fun locked => ?_, fun coasts => ?_⟩⟩
  · exact Feed.atFrame_ends (s.feed.coastEnds_iff.mpr ⟨coasts, past⟩)
  · rw [← live, ← lastGood]
    exact Feed.canvas_locked locked (geometry.trans known)
  · rw [← lastGood]
    exact Feed.canvas_coasting coasts (geometry.trans known)

end Sys2Proof.Machine
end

section
/-! PROOFS. O44: an input frame start in every feed state, and the missing frame (R141, R142, R144 to R146, R61). -/

namespace Sys2Proof.Machine

/-! ## Intervals (R141, R142) -/

theorem intervalsAgree_iff (earlier later : Nat) :
    intervalsAgree earlier later = true ↔ (later - earlier) * 200 ≤ earlier ∧ (earlier - later) * 200 ≤ earlier :=
  decide_eq_true_iff

theorem secondIntervalGood_iff (f : Feed) (period i : Nat) :
    secondIntervalGood period (f.intervalOf i) = true ↔
      firstIntervalGood (f.intervalOf i) = true ∧ intervalsAgree period i = true := by
  unfold Feed.intervalOf
  split
  · exact Bool.and_eq_true _ _ ▸ Iff.rfl
  · exact iff_of_false Bool.false_ne_true (fun timed => Bool.false_ne_true timed.1)

/-! ## Training (R142) -/

section
variable {f : InputFrame} {s : State}

theorem State.train_unsupported (unsupported : ¬ (Geometry.mk f.width f.height).supported = true) :
    s.train f = State.raise .feedChange (addMembers 16) (s.setTraining .empty) := by
  have raised : s.train f = State.raiseSet .feedChange unsupportedMember (s.setTraining .empty) :=
    if_pos (by simpa using unsupported)
  exact raised.trans (if_neg (by decide))

variable (supported : (Geometry.mk f.width f.height).supported = true)
include supported

theorem State.train_empty (run : s.feed.training = .empty) :
    s.train f = s.setTraining (.one { width := f.width, height := f.height }) := by
  simp [State.train, supported, run]

theorem State.train_one {g0 : Geometry} (run : s.feed.training = .one g0) :
    s.train f =
      if g0 = { width := f.width, height := f.height } ∧ firstIntervalGood (s.feed.intervalOf f.interval) = true then
        s.setTraining (.two { width := f.width, height := f.height } f.interval)
      else s.setTraining (.one { width := f.width, height := f.height }) := by
  simp [State.train, supported, run]

theorem State.train_two {g0 : Geometry} {period : Nat} (run : s.feed.training = .two g0 period) :
    s.train f =
      if g0 = { width := f.width, height := f.height } ∧ secondIntervalGood period (s.feed.intervalOf f.interval) = true then
        (s.lock { width := f.width, height := f.height } period f).frameIf true f.pins
      else s.setTraining (.one { width := f.width, height := f.height }) := by
  simp [State.train, supported, run]

end

/-! ## The lock (R144) -/

/-- R144: a lock names the state it comes from, so FEED_CHANGE has a member. -/
theorem lockMembers_ne_zero {f : Feed} (trains : f.state = .training ∨ f.state = .coasting) (g : Geometry) (period : Nat) :
    lockMembers f g period ≠ 0 := by
  intro zero
  have bits := lockMembers_getLsbD trains g period
  rw [zero] at bits
  rcases trains with phase | phase
  · exact absurd ((bits 0).mpr (.inl ⟨rfl, phase⟩)) (by decide)
  · exact absurd ((bits 1).mpr (.inr (.inl ⟨rfl, phase⟩))) (by decide)

theorem State.lock_eq {s : State} (trains : s.feed.state = .training ∨ s.feed.state = .coasting) (g : Geometry)
    (period : Nat) (f : InputFrame) :
    s.lock g period f =
      State.raise .feedChange (addMembers (lockMembers s.feed g period))
        { s with
          feed := { s.feed with state := .locked, geometry := some g, period := period, coast := 0, training := .empty,
                                live := f.rows, completes := true, markerSeen := true }
          margin := { s.margin with read := 0, stopped := false } } := if_neg (lockMembers_ne_zero trains g period)

/-! ## Which event does what (R141, R145) -/

theorem exec_inputFrameStart_dark {s : State} (dark : s.feed.state = .dark) (f : InputFrame) :
    exec (.inputFrameStart f) s = .next s := by
  simp [exec, execInputFrameStart, dark]

theorem exec_inputFrameStart_trains {s : State} (trains : s.feed.state = .training ∨ s.feed.state = .coasting)
    (f : InputFrame) : exec (.inputFrameStart f) s = .next (s.train f) := by
  rcases trains with phase | phase <;> simp [exec, execInputFrameStart, phase]

theorem exec_inputFrameStart_locked {s : State} (locked : s.feed.state = .locked) (f : InputFrame) :
    exec (.inputFrameStart f) s = .next (s.checkFrame f) := by
  simp [exec, execInputFrameStart, locked]

theorem exec_missingFrame_locked {s : State} (locked : s.feed.state = .locked) (pins : FramePins) :
    exec (.missingFrame pins) s = .next (s.enterCoasting.frameIf true pins) :=
  congrArg Host.Outcome.next (if_pos locked)

theorem exec_missingFrame_other {s : State} (other : s.feed.state ≠ .locked) (pins : FramePins) :
    exec (.missingFrame pins) s = .next s := congrArg Host.Outcome.next (if_neg other)

theorem exec_frameStart_eq (pins : FramePins) (s : State) : exec (.frameStart pins) s = .next (s.frameIf true pins) := rfl

/-- R145: when the lock accepts a frame. -/
theorem Feed.agrees_iff (f : Feed) (i : InputFrame) :
    f.agrees i = true ↔
      f.geometry = some { width := i.width, height := i.height } ∧ f.markerSeen = true ∧
        intervalsAgree f.period i.interval = true := by
  simp [Feed.agrees, and_assoc]

/-! ## The statement, feed state by feed state -/

/-- R142, R144: an input frame start of a feed that trains. -/
theorem inputFrameStart_trains {f : InputFrame} {s : State} {g : Geometry} {supported timed : Prop}
    (size : g = { width := f.width, height := f.height })
    (fits : supported ↔ 320 ≤ f.width ∧ f.width ≤ 7680 ∧ 240 ≤ f.height ∧ f.height ≤ 2160)
    (times : timed ↔ s.feed.markerSeen = true ∧ 16583333 ≤ f.interval ∧ f.interval ≤ 41875000)
    (trains : s.feed.state = .training ∨ s.feed.state = .coasting) :
    (¬ supported →
      exec (.inputFrameStart f) s =
        .next (State.raise .feedChange (addMembers 16) (s.setTraining .empty))) ∧
    (supported → s.feed.training = .empty → exec (.inputFrameStart f) s = .next (s.setTraining (.one g))) ∧
    (supported → ∀ g0, s.feed.training = .one g0 →
      (g0 = g → timed → exec (.inputFrameStart f) s = .next (s.setTraining (.two g f.interval))) ∧
      (g0 ≠ g ∨ ¬ timed → exec (.inputFrameStart f) s = .next (s.setTraining (.one g)))) ∧
    (supported → ∀ g0 period, s.feed.training = .two g0 period →
      (g0 = g → timed → intervalsAgree period f.interval = true →
        exec (.inputFrameStart f) s = .next ((s.lock g period f).frameIf true f.pins)) ∧
      (g0 ≠ g ∨ ¬ timed ∨ intervalsAgree period f.interval = false →
        exec (.inputFrameStart f) s = .next (s.setTraining (.one g)))) := by
  subst size
  have fits : supported ↔ (Geometry.mk f.width f.height).supported = true :=
    fits.trans (Geometry.supported_iff { width := f.width, height := f.height }).symm
  have first : timed ↔ firstIntervalGood (s.feed.intervalOf f.interval) = true :=
    times.trans (firstIntervalGood_iff s.feed f.interval).symm
  have second : ∀ period, secondIntervalGood period (s.feed.intervalOf f.interval) = true ↔
      timed ∧ intervalsAgree period f.interval = true := fun period =>
    (secondIntervalGood_iff s.feed period f.interval).trans (and_congr_left' first.symm)
  rw [exec_inputFrameStart_trains trains]
  refine ⟨fun unsupported => ?_, fun supported empty => ?_, fun supported g0 run => ?_, fun supported g0 period run => ?_⟩
  · rw [State.train_unsupported (mt fits.mpr unsupported)]
  · rw [State.train_empty (fits.mp supported) empty]
  · rw [State.train_one (fits.mp supported) run]
    refine ⟨fun same timed => by rw [if_pos ⟨same, first.mp timed⟩], fun again => ?_⟩
    rw [if_neg]
    rintro ⟨same, timed⟩
    exact again.elim (fun other => other same) (fun untimed => untimed (first.mpr timed))
  · rw [State.train_two (fits.mp supported) run]
    refine ⟨fun same timed agrees => by rw [if_pos ⟨same, (second period).mpr ⟨timed, agrees⟩⟩], fun again => ?_⟩
    rw [if_neg]
    rintro ⟨same, completes⟩
    obtain ⟨timed, agrees⟩ := (second period).mp completes
    rcases again with other | untimed | differs
    · exact other same
    · exact untimed timed
    · exact absurd (agrees.symm.trans differs) (by decide)

/-- R145, R146: a frame that a LOCKED feed discards, its timed frame start overdue or yet to come. -/
theorem exec_inputFrameStart_discards {f : InputFrame} {s : State} (locked : s.feed.state = .locked)
    (differs : s.feed.geometry ≠ some { width := f.width, height := f.height } ∨ s.feed.markerSeen = false ∨
      intervalsAgree s.feed.period f.interval = false) :
    exec (.inputFrameStart f) s =
      .next (State.frameIf f.overdue f.pins
        { s with
          feed := { s.feed with state := .coasting, lost := true, coast := 0, training := .empty, completes := false,
                                markerSeen := true }
          slots := dropSamples s.slots }) := by
  have refused : ¬ s.feed.agrees f = true := by
    rw [Feed.agrees_iff]
    rintro ⟨same, seen, agrees⟩
    simp [same, seen, agrees] at differs
  rw [exec_inputFrameStart_locked locked, State.checkFrame, if_neg refused]
  rfl

theorem State.frameIf_false (pins : FramePins) (s : State) : s.frameIf false pins = s := rfl

/-- R146, R147: the missing frame takes its frame start at once, and that counts one coasted frame. -/
theorem missingFrame_feed {s : State} (released : s.resetPin = false) (limit : 1 ≤ s.feed.coastLimit) (pins : FramePins) :
    (s.enterCoasting.frameIf true pins).feed =
      { s.feed with state := .coasting, lost := true, coast := 1, training := .empty, completes := false
                    frameNumber := s.feed.frameNumber + 1 } := by
  have released : s.enterCoasting.resetPin = false := released
  rw [frameIf_due released, if_pos rfl, takeFrame_feed, enterCoasting_atFrame limit]

/-- Settles O44: the agreement of intervals; an input frame start of a DARK, a training and a LOCKED feed; the missing frame. -/
theorem inputFrameStartHandled : Obligations.InputFrameStartHandled := by
  refine ⟨intervalsAgree_iff, fun f s g supported timed size fits times => ⟨fun dark => exec_inputFrameStart_dark dark f,
    fun trains => ?_, fun locked => ⟨fun same seen agrees => ?_, fun differs rising => ?_⟩⟩,
    fun pins s => ⟨fun other => exec_missingFrame_other other pins, fun locked rising => ?_⟩⟩
  · obtain ⟨unsupported, empty, one, two⟩ := inputFrameStart_trains size fits times trains
    refine ⟨unsupported, empty, one, fun good g0 period run => ⟨fun same timed agrees => ?_, (two good g0 period run).2⟩⟩
    refine ⟨lockMembers s.feed g period, lockMembers_getLsbD trains g period, _,
      (two good g0 period run).1 same timed agrees, ?_⟩
    rw [exec_frameStart_eq, State.lock_eq trains]
  · rw [size] at same
    rw [exec_inputFrameStart_locked locked, State.checkFrame, if_pos ((s.feed.agrees_iff f).mpr ⟨same, seen, agrees⟩)]
    rfl
  · rw [size] at differs
    refine ⟨dropSamples s.slots, find?_dropSamples rising, fun u left => ?_⟩
    subst left
    rw [exec_inputFrameStart_discards locked differs]
    refine ⟨fun early => ?_, fun overdue => ⟨_, rfl, ?_⟩⟩
    · rw [early, State.frameIf_false]
    · rw [overdue, exec_frameStart_eq]
  · refine ⟨dropSamples s.slots, s.enterCoasting.frameIf true pins, find?_dropSamples rising,
      exec_missingFrame_locked locked pins, rfl, fun released limit => missingFrame_feed released limit pins⟩

end Sys2Proof.Machine
end

section
/-! PROOFS. O45: a completed input frame becomes the last good frame and runs the photo watch (R59 to R62, R148). -/

namespace Sys2Proof.Machine

/-! ## Colours (R60) -/

theorem coloursAgree_iff (t : Fin 8) (p q : Colour) :
    coloursAgree t p q = true ↔
      p.r.toNat / 2 ^ t.val = q.r.toNat / 2 ^ t.val ∧ p.g.toNat / 2 ^ t.val = q.g.toNat / 2 ^ t.val ∧
        p.b.toNat / 2 ^ t.val = q.b.toNat / 2 ^ t.val := by
  simp [coloursAgree, componentsAgree, and_assoc]

theorem Sample.allAgreeWith_iff (t : Fin 8) (c : Colour) (p : Sample) :
    p.allAgreeWith t c = true ↔
      coloursAgree t p.lt c = true ∧ coloursAgree t p.rt c = true ∧ coloursAgree t p.lb c = true ∧
        coloursAgree t p.rb c = true := by
  simp [Sample.allAgreeWith, and_assoc]

theorem Sample.agreesWith_iff (t : Fin 8) (p q : Sample) :
    p.agreesWith t q = true ↔
      coloursAgree t p.lt q.lt = true ∧ coloursAgree t p.rt q.rt = true ∧ coloursAgree t p.lb q.lb = true ∧
        coloursAgree t p.rb q.rb = true := by
  simp [Sample.agreesWith, and_assoc]

/-! ## The watch of one slot (R59 to R61) -/

section
variable {p : Picture} {t : Slot}

theorem Slot.watch_vacant (vacant : t.record = none) : t.watch p = t := by
  simp only [Slot.watch, vacant]

variable {r : SlotRecord} (bound : t.record = some r)
include bound

theorem Slot.watch_off (off : r.watchMode = .off) : t.watch p = t := by
  simp only [Slot.watch, bound, off]

theorem Slot.watch_first (still : r.watchMode = .still) (first : t.sample = none) :
    t.watch p = { t with sample := some (probe p r) } := by
  simp only [Slot.watch, bound, still, first]

theorem Slot.watch_matching (mode : r.watchMode = .matching) :
    t.watch p = t.evaluated r.watchFrames ((probe p r).allAgreeWith r.tolerance r.watchColour) (probe p r) := by
  simp only [Slot.watch, bound, mode]

theorem Slot.watch_still (mode : r.watchMode = .still) {before : Sample} (seen : t.sample = some before) :
    t.watch p = t.evaluated r.watchFrames ((probe p r).agreesWith r.tolerance before) (probe p r) := by
  simp only [Slot.watch, bound, mode, seen]

/-- R59 to R61: a watched slot that has colours to compare is evaluated by whether they agree. -/
theorem Slot.watch_evaluates {holds : Prop}
    (watched :
      (r.watchMode = .matching ∧
        (holds ↔
          coloursAgree r.tolerance (probe p r).lt r.watchColour = true ∧
          coloursAgree r.tolerance (probe p r).rt r.watchColour = true ∧
          coloursAgree r.tolerance (probe p r).lb r.watchColour = true ∧
          coloursAgree r.tolerance (probe p r).rb r.watchColour = true)) ∨
      (r.watchMode = .still ∧ ∃ before, t.sample = some before ∧
        (holds ↔
          coloursAgree r.tolerance (probe p r).lt before.lt = true ∧
          coloursAgree r.tolerance (probe p r).rt before.rt = true ∧
          coloursAgree r.tolerance (probe p r).lb before.lb = true ∧
          coloursAgree r.tolerance (probe p r).rb before.rb = true))) :
    ∃ agree : Bool, (agree = true ↔ holds) ∧ t.watch p = t.evaluated r.watchFrames agree (probe p r) := by
  rcases watched with ⟨mode, meaning⟩ | ⟨mode, before, sampled, meaning⟩
  · exact ⟨_, (Sample.allAgreeWith_iff _ _ _).trans meaning.symm, Slot.watch_matching bound mode⟩
  · exact ⟨_, (Sample.agreesWith_iff _ _ _).trans meaning.symm, Slot.watch_still bound mode sampled⟩

end

theorem Slot.evaluated_fails (frames : Nat) (seen : Sample) (t : Slot) :
    t.evaluated frames false seen = { t with counter := 0, missing := false, sample := some seen } := rfl

/-- R61: the counter of a legal slot goes up to its watch frames, and the slot is MISSING once it is there. -/
theorem Slot.evaluated_holds {frames : Nat} {t : Slot} (top : t.counter ≤ frames)
    (flag : t.missing = true ↔ t.counter = frames) (seen : Sample) :
    t.evaluated frames true seen =
      { t with
        counter := min frames (t.counter + 1), missing := decide (frames ≤ t.counter + 1), sample := some seen } := by
  by_cases reached : t.counter = frames
  · simp [Slot.evaluated, reached]
  · have unset : t.missing = false := Bool.eq_false_iff.mpr (mt flag.mp reached)
    by_cases next : t.counter + 1 = frames
    · simp [Slot.evaluated, reached, next]
    · have below : min frames (t.counter + 1) = t.counter + 1 := by omega
      have early : ¬ frames ≤ t.counter + 1 := by omega
      simp [Slot.evaluated, reached, next, below, early, unset]

/-! ## The slots of a table (R36) -/

theorem SlotsOk.slot {s : State} (ok : SlotsOk s.slots) (n : Nat) : (s.slot n).Ok := by
  unfold State.slot
  cases listed : Table.find? s.slots n with
  | none => exact ⟨fun _ => ⟨rfl, rfl, rfl⟩, fun _ none => nomatch none⟩
  | some t => exact (ok.2 _ (Table.find?_some_mem listed)).2.2

/-- R62: some slot's MISSING flag changes. -/
theorem watchChanges_iff {s : State} (rising : Table.Rising s.slots) (p : Picture) :
    watchChanges p s.slots = true ↔ ∃ n, ((s.slot n).watch p).missing ≠ (s.slot n).missing := by
  simp only [watchChanges, List.any_eq_true, bne_iff_ne]
  constructor
  · rintro ⟨⟨n, t⟩, listed, changes⟩
    refine ⟨n, ?_⟩
    rw [State.slot, (Table.find?_eq_some_iff rising).mpr listed]
    exact changes
  · rintro ⟨n, changes⟩
    unfold State.slot at changes
    cases found : Table.find? s.slots n with
    | none =>
      rw [found] at changes
      exact absurd rfl changes
    | some t =>
      rw [found] at changes
      exact ⟨(n, t), Table.find?_some_mem found, changes⟩

/-! ## The completion (R148) -/

theorem exec_inputFrameComplete_of {s : State} (complete : s.feed.canComplete = true) :
    exec .inputFrameComplete s = .next s.completeFrame := congrArg Host.Outcome.next (if_pos complete)

/-- R148: a frame that cannot complete. -/
theorem exec_complete_of_not {s : State} (incomplete : s.feed.canComplete = false) :
    exec .inputFrameComplete s = .next s ∧ ∀ n, exec (.watchFramesReached n) s = .next s := by
  refine ⟨congrArg Host.Outcome.next (if_neg (by simp [incomplete])), fun n => congrArg Host.Outcome.next (if_neg ?_)⟩
  simp [State.watchReaches, incomplete]

theorem Feed.canComplete_iff {f : Feed} {g : Geometry} (known : f.geometry = some g) :
    f.canComplete = true ↔ f.state = .locked ∧ f.completes = true ∧ f.live.length = g.height := by
  simp [Feed.canComplete, known, and_assoc]

theorem completeFrame_slots (s : State) :
    s.completeFrame.slots = mapSlots (fun _ t => t.watch s.feed.livePicture) s.slots := by
  unfold State.completeFrame State.photoWatch
  split <;> simp

/-- R59: every slot is watched. -/
theorem completeFrame_slot {s : State} (rising : Table.Rising s.slots) (n : Nat) :
    s.completeFrame.slot n = (s.slot n).watch s.feed.livePicture := by
  rw [State.slot, completeFrame_slots, find?_mapSlots rising (fun _ t => t.watch s.feed.livePicture) (fun _ => rfl)]
  rfl

/-- R62: PHOTO_WATCH is raised when a MISSING flag changes. -/
theorem completeFrame_notices (s : State) :
    s.completeFrame.notices =
      if watchChanges s.feed.livePicture s.slots then
        (State.raise .photoWatch (fun _ => BitVec.ofNat 32 (missingCount s.completeFrame.slots)) s).notices
      else s.notices := by
  rw [completeFrame_slots]
  unfold State.completeFrame State.photoWatch
  split
  · exact State.raise_notices_congr _ _ rfl
  · rfl

theorem completeFrame_frame (s : State) :
    s.completeFrame =
      { s with
        feed := { s.feed with lastGood := some s.feed.livePicture, completes := false }
        slots := s.completeFrame.slots, notices := s.completeFrame.notices } := by
  unfold State.completeFrame State.photoWatch
  split
  · rw [State.raisePhotoWatch, State.raise_eq]
  · rfl

/-! ## WATCH_FRAMES_REACHED (R61) -/

theorem State.watchReaches_iff {s : State} (rising : Table.Rising s.slots) (n : Nat) :
    s.watchReaches n = true ↔
      s.feed.canComplete = true ∧ (s.slot n).missing = false ∧ (s.completeFrame.slot n).missing = true := by
  simp [State.watchReaches, completeFrame_slot rising, and_assoc]

theorem exec_watchFramesReached_due {s : State} {i : Fin 256} (due : s.watchReaches i.val = true) :
    exec (.watchFramesReached i) s = .next s.completeFrame := congrArg Host.Outcome.next (if_pos due)

theorem exec_watchFramesReached_not_due {s : State} {i : Fin 256} (early : ¬ s.watchReaches i.val = true) :
    exec (.watchFramesReached i) s = .next s := congrArg Host.Outcome.next (if_neg early)

/-! ## The statement -/

/-- R148: the ways in which a frame cannot complete. -/
theorem Feed.not_canComplete {f : Feed}
    (cannot : f.state ≠ .locked ∨ f.completes = false ∨ ∃ g, f.geometry = some g ∧ f.live.length ≠ g.height) :
    f.canComplete = false := by
  rcases cannot with other | done | ⟨g, known, short⟩
  · simp [Feed.canComplete, other]
  · simp [Feed.canComplete, done]
  · simp [Feed.canComplete, known, short]

/-- R60, R61: a watched slot at the completion, by whether its colours agree. -/
theorem watch_of_holds {p : Picture} {t : Slot} (ok : t.Ok) {r : SlotRecord} (bound : t.record = some r) {agree : Bool}
    {holds : Prop} (meaning : agree = true ↔ holds) (watch : t.watch p = t.evaluated r.watchFrames agree (probe p r)) :
    (¬ holds → t.watch p = { t with counter := 0, missing := false, sample := some (probe p r) }) ∧
    (holds →
      t.watch p =
        { t with
          counter := min r.watchFrames (t.counter + 1), missing := decide (r.watchFrames ≤ t.counter + 1)
          sample := some (probe p r) }) := by
  obtain ⟨-, top, flag, -⟩ := ok.2 r bound
  rw [watch]
  refine ⟨fun fails => ?_, fun agrees => ?_⟩
  · rw [Bool.eq_false_iff.mpr (mt meaning.mp fails), Slot.evaluated_fails]
  · rw [meaning.mpr agrees, Slot.evaluated_holds top flag]

/-- Settles O45: the colours, the pixels and the count of MISSING slots; a frame that cannot complete; then the last good frame,
PHOTO_WATCH, each slot by its watch mode, and WATCH_FRAMES_REACHED. -/
theorem inputFrameCompletes : Obligations.InputFrameCompletes := by
  refine ⟨coloursAgree_iff, fun _ _ _ => rfl, fun _ => List.countP_eq_length_filter.symm,
    fun s => ⟨fun cannot => exec_complete_of_not (Feed.not_canComplete cannot), ?_⟩⟩
  intro g p locked completes known received ok picture
  have complete : s.feed.canComplete = true := (Feed.canComplete_iff known).mpr ⟨locked, completes, received⟩
  have live : s.feed.livePicture = p := by rw [picture, Feed.livePicture, known]; rfl
  have slot : ∀ n, s.completeFrame.slot n = (s.slot n).watch p := fun n => live ▸ completeFrame_slot ok.1 n
  have changes := live ▸ watchChanges_iff ok.1 s.feed.livePicture
  have frame := completeFrame_frame s
  have notices := completeFrame_notices s
  rw [live] at frame notices
  refine ⟨s.completeFrame, exec_inputFrameComplete_of complete, frame, fun same => ?_, fun ⟨n, differs⟩ => ?_,
    fun n vacant => (slot n).trans (Slot.watch_vacant vacant), fun n r bound seen holds probed => ?_, fun i quiet => ?_⟩
  · rw [notices, if_neg]
    intro changed
    obtain ⟨n, differs⟩ := changes.mp changed
    exact differs (slot n ▸ same n)
  · rw [notices, if_pos (changes.mpr ⟨n, slot n ▸ differs⟩)]
  · obtain rfl : seen = probe p r := probed
    refine ⟨fun off => (slot n).trans (Slot.watch_off bound off),
      fun still first => (slot n).trans (Slot.watch_first bound still first), fun watched => ?_⟩
    obtain ⟨agree, meaning, watch⟩ := Slot.watch_evaluates bound watched
    obtain ⟨fails, agrees⟩ := watch_of_holds (ok.slot n) bound meaning watch
    refine ⟨fun differ => (slot n).trans (fails differ), fun agreed => (slot n).trans (agrees agreed), ?_⟩
    rintro i rfl agreed unset reached
    refine exec_watchFramesReached_due ((State.watchReaches_iff ok.1 i.val).mpr ⟨complete, unset, ?_⟩)
    rw [slot, agrees agreed]
    exact decide_eq_true reached
  · refine exec_watchFramesReached_not_due fun due => ?_
    obtain ⟨-, unset, set⟩ := (State.watchReaches_iff ok.1 i.val).mp due
    simp [unset, set] at quiet

end Sys2Proof.Machine
end

section
/-! PROOFS. O1, O2 and O56: the step, the values after a full reset, and the invariants that they satisfy (R159, R163, R164). -/

namespace Sys2Proof.Machine

/-- Settles O1: the front of the queue is executed, and an empty queue idles. -/
theorem stepRunsFront : Obligations.StepRunsFront := by
  refine ⟨fun _ _ _ => rfl, fun s idle => ?_⟩
  unfold step
  rw [idle]

/-! ## The blocks after a full reset (R163) -/

theorem reset_formats (i : Fin 8) : State.reset.formats[i] = Format.reset := by simp [State.reset]

theorem reset_lines (i : Fin 8) : State.reset.lines[i] = Line.reset := by simp [State.reset]

theorem reset_groups (g : Fin 4) : State.reset.groups[g] = Group.reset := by simp [State.reset]

theorem reset_outputs (k : Fin 4) : State.reset.outputs[k] = Output.reset k.val := by
  revert k
  simp [State.reset, Fin.forall_fin_succ]

/-- R175: RESTARTED alone is pending, and the two severe sources stand above the others. -/
theorem reset_notices (i : Fin 14) :
    State.reset.notices[i] =
      { priority := if i.val < 2 then 8 else 4, held := if i.val = 0 then some 0 else none } := by
  revert i
  decide

/-- Settles O2: the records of the lines, groups, outputs and notice sources one by one, the other blocks by their values. -/
theorem resetTable : Obligations.ResetTable :=
  ⟨rfl, reset_formats, rfl, fun _ => rfl, fun i => ⟨_, reset_lines i⟩, reset_groups, rfl, rfl,
    fun k => ⟨_, reset_outputs k⟩, ⟨_, rfl⟩, rfl, rfl, rfl, reset_notices, rfl, rfl⟩

/-! ## The invariants (R164) -/

/-- A full reset of the reset state changes nothing, so what every full reset satisfies holds of the reset state. -/
theorem reset_fullReset : State.reset.fullReset = State.reset := rfl

/-- Settles O56: the reset state satisfies what a full reset brings about in each family of blocks. -/
theorem resetSatisfiesInvariants : Obligations.ResetSatisfiesInvariants := by
  rintro s rfl
  have tables := reset_fullReset ▸ tablesOk_fullReset State.reset
  have panels := reset_fullReset ▸ panelsOk_fullReset State.reset
  have links := reset_fullReset ▸ linksOk_fullReset State.reset
  have feed := reset_fullReset ▸ feedAndResetOk_fullReset State.reset
  exact ⟨tables.items, tables.slots, tables.schedule, tables.clock, tables.art, tables.captures, panels.groups, panels.lines,
    panels.holds, fun k => ⟨(links.outputs k).link, (links.outputs k).window, (links.outputs k).queues⟩, links.margin,
    links.notices, feed.feed.ok, feed.held⟩

end Sys2Proof.Machine
end

section
/-! PROOFS. O3 and O4: the full reset, and the part while its reset pin is asserted (R143, R163, R164). -/

namespace Sys2Proof.Machine

/-! ## The full reset (R163, R164) -/

/-- R143, R164: a full reset of a part whose reset pin is not asserted. -/
theorem fullReset_of_released {s : State} (released : s.resetPin = false) :
    s.fullReset = State.afterReset s.pending s.feed.signal := by
  unfold State.fullReset State.afterReset resetFeed
  simp only [released, Bool.not_false, Bool.and_true]
  rfl

/-- R143, R164: a full reset of a part whose reset pin is asserted. -/
theorem fullReset_of_pin {s : State} (pin : s.resetPin = true) :
    s.fullReset =
      { State.reset with
        pending := s.pending, resetPin := true, feed := { Feed.reset with signal := s.feed.signal } } := by
  rw [State.fullReset, pin, resetFeed_held]

theorem exec_restart {s : State} (taken : s.Takes) (b : List Byte) :
    exec (.restart b) s = .next ((restart b s.countTaken).settle 0x01) := congrArg Host.Outcome.next (sendCommand_takes taken)

/-- R159, R163: a RESTART with an empty body resets and leaves no reply. -/
theorem exec_restart_resets {s : State} (taken : s.Takes) :
    exec (.restart []) s = .next (State.afterReset s.pending s.feed.signal) := by
  have resets : (restart [] s.countTaken).settle 0x01 = s.countTaken.fullReset := rfl
  have released : s.countTaken.resetPin = false := taken.1.1
  rw [exec_restart taken, resets, fullReset_of_released released]
  rfl

theorem restart_badLength {b : List Byte} (full : b ≠ []) (s : State) : restart b s = .refuse s .badLength :=
  if_pos (mt List.length_eq_zero_iff.mp full)

/-- Settles O3: the pin asserted and released, power-up, and RESTART with an empty and with another body. -/
theorem fullResetsComplete : Obligations.FullResetsComplete := by
  intro b s
  refine ⟨?asserted, fun pin => ?released, fun released => ?powerUp, fun taken empty => ?restart, fun taken full => ?refused⟩
  case asserted => exact congrArg Host.Outcome.next (fullReset_of_pin (s := { s with resetPin := true }) rfl)
  case released =>
    have ends : exec .resetPinReleased s = .next ({ s with resetPin := false } : State).fullReset :=
      congrArg Host.Outcome.next (if_pos pin)
    rw [ends, fullReset_of_released rfl]
  case powerUp => exact congrArg Host.Outcome.next (fullReset_of_released released)
  case restart =>
    subst empty
    exact exec_restart_resets taken
  case refused => rw [exec_restart taken, restart_badLength full, settle_refuse]

/-! ## While the reset pin is asserted (R164) -/

/-- Settles O4: a held part is DARK, and so every row but those that act under the pin leaves it as it is. -/
theorem resetPinHolds : Obligations.ResetPinHolds := by
  intro c s pin held notAsserted notReleased notPowerUp notFound notLost
  have dark : s.feed.state = .dark := by
    rw [held.feed pin]
    rfl
  refine exec_of_pin pin dark ?_
  cases c with
  | resetPinAsserted => exact absurd rfl notAsserted
  | resetPinReleased => exact absurd rfl notReleased
  | powerUp => exact absurd rfl notPowerUp
  | signalFound => exact absurd rfl notFound
  | signalLost cut => exact absurd rfl (notLost cut)
  | _ => rfl

end Sys2Proof.Machine
end

section
/-! PROOFS. O6 to O8: a command that is turned away, the one reply of a command taken, and a refusal (R158 to R161, R165). -/

namespace Sys2Proof.Machine

/-- Settles O6: the gate turns every command away before its effect is looked at. -/
theorem fullQueueTurnsAway : Obligations.FullQueueTurnsAway := by
  intro c code b s sent locked full
  obtain ⟨eff, -, sends⟩ := exec_command sent s
  rw [sends, sendCommand_full locked full]
  rfl

/-! ## The codes of the command set (R165) -/

/-- One row of the command set for each code of the index, in the order of the index. -/
def commandRows : List Instr :=
  [.restart [], .itemPut [], .itemDrop [], .itemGet [], .itemList [], .pricePut [], .formatPut [], .formatGet [],
    .formatMode [], .slotPut [], .slotDrop [], .slotGet [], .mark [], .availList [], .linePut [], .lineGet [],
    .groupPut [], .groupGet [], .flip [], .hold [], .release [], .clockSet [], .clockGet [], .schedulePut [],
    .scheduleDrop [], .scheduleGet [], .outputPut [], .outputGet [], .panelRelink [], .feedPut [], .feedGet [],
    .status [], .noticePut [], .artOpen [], .artWrite [], .artClose [], .artDrop [], .artGet []]

theorem commandRows_codes : commandRows.map commandOf = commandCodes.map (fun code => some (code, [])) := rfl

theorem ne_unknownCommand_of_mem_commandRows {c : Instr} (row : c ∈ commandRows) (x : Byte) (y : List Byte) :
    c ≠ .unknownCommand x y := by
  rintro rfl
  simp [commandRows] at row

/-- R165: a row other than UNKNOWN_COMMAND has the effect that the index gives its code. -/
theorem effectOf_eq_commandEffect {c : Instr} {code : Byte} {b : List Byte} (sent : commandOf c = some (code, b))
    (known : ∀ x y, c ≠ .unknownCommand x y) : effectOf c = commandEffect code := by
  have effect : effectOf c = (commandOf c).bind (fun p => commandEffect p.1) := by
    cases c with
    | unknownCommand x y => exact absurd rfl (known x y)
    | _ => rfl
  rw [effect, sent]
  rfl

/-- R165: the codes of the index are those that the rows of the command set send. -/
theorem mem_commandCodes_iff (code : Byte) :
    code ∈ commandCodes ↔
      ∃ (c : Instr) (b : List Byte), commandOf c = some (code, b) ∧ ∀ x y, c ≠ .unknownCommand x y := by
  constructor
  · intro listed
    have sent : some (code, []) ∈ commandRows.map commandOf :=
      commandRows_codes ▸ List.mem_map_of_mem (f := fun code => some (code, [])) listed
    obtain ⟨c, row, sends⟩ := List.mem_map.mp sent
    exact ⟨c, [], sends, ne_unknownCommand_of_mem_commandRows row⟩
  · rintro ⟨c, b, sent, known⟩
    obtain ⟨eff, effect, -⟩ := exec_command sent State.reset
    have named := commandEffect_isNone code
    rw [← effectOf_eq_commandEffect sent known, effect] at named
    simpa using named

/-! ## The one reply of a command taken (R159, R161) -/

theorem Answer.settle_of_reply {a : Answer} {result : ResultCode} {body : List Byte} (reply : a.reply = some (result, body))
    (code : Byte) : a.settle code = a.state.queueReply ⟨code, result, body⟩ := by
  unfold Answer.settle
  rw [reply]

/-- R159: a command taken is counted and leaves its answer; a RESTART that resets has none. -/
theorem exec_command_taken {c : Instr} {code : Byte} {b : List Byte} {s : State} (sent : commandOf c = some (code, b))
    (taken : s.Takes) (answered : ¬ (code = 0x01 ∧ b = [])) :
    ∃ a : Answer, a.Proper s.countTaken ∧ exec c s = .next (a.settle code) := by
  obtain ⟨eff, effect, sends⟩ := exec_command sent s
  exact ⟨eff b s.countTaken, proper_effectOf sent effect answered _, by rw [sends, sendCommand_takes taken]⟩

theorem exec_unknownCommand {code : Byte} (foreign : code ∉ commandCodes) {s : State} (taken : s.Takes) (b : List Byte) :
    exec (.unknownCommand code b) s = .next (s.replied code .unknownCommand []) := by
  have unlisted : (commandEffect code).isNone = true := by rw [commandEffect_isNone, decide_eq_true foreign]
  have sends : exec (.unknownCommand code b) s = .next (sendCommand code unknown b s) :=
    congrArg Host.Outcome.next (if_pos unlisted)
  rw [sends, sendCommand_takes taken]
  rfl

/-- Settles O7: the codes of the rows, the answer to a code of no command, and the count and the reply of every command taken. -/
theorem everyTakenCommandAnswered : Obligations.EveryTakenCommandAnswered := by
  refine ⟨mem_commandCodes_iff, fun code b s foreign taken => exec_unknownCommand foreign taken b, ?_⟩
  intro c code b s sent taken art answered
  obtain ⟨a, ⟨result, body, reply, short, margin, pending, pin, -⟩, ran⟩ := exec_command_taken sent taken answered
  rw [Answer.settle_of_reply reply] at ran
  refine ⟨_, result, body, ran, short art, ?_, pending, pin⟩
  rw [State.queueReply_margin, margin]
  rfl

/-! ## A refusal (R160) -/

/-- R163: the row that sends a RESTART with an empty body. -/
theorem exec_of_restart {c : Instr} (sent : commandOf c = some (0x01, [])) {s : State} (taken : s.Takes) :
    exec c s = .next (State.afterReset s.pending s.feed.signal) := by
  obtain ⟨eff, effect, sends⟩ := exec_command sent s
  obtain rfl : restart = eff := commandEffect_eq_effectOf sent effect
  rw [sends]
  exact exec_restart_resets taken

/-- Settles O8: a RESTART that resets leaves no reply, and any other command that is refused has left the state it found. -/
theorem refusalChangesNothing : Obligations.RefusalChangesNothing := by
  intro c code b s t result body sent taken ran replied notDone notBadCheck
  by_cases resets : code = 0x01 ∧ b = []
  · obtain ⟨rfl, rfl⟩ := resets
    obtain rfl := Host.Outcome.next.inj ((exec_of_restart sent taken).symm.trans ran)
    have queued : [] = s.margin.replies ++ [⟨0x01, result, body⟩] := replied
    simp at queued
  · obtain ⟨a, ⟨r, body', reply, -, margin, -, -, untouched⟩, answers⟩ := exec_command_taken sent taken resets
    rw [Answer.settle_of_reply reply] at answers
    obtain rfl := Host.Outcome.next.inj (answers.symm.trans ran)
    rw [State.queueReply_margin, margin] at replied
    obtain ⟨rfl, rfl⟩ : r = result ∧ body' = body := by simpa using replied
    rw [untouched.resolve_left notDone |>.resolve_left notBadCheck]
    rfl

end Sys2Proof.Machine
end

section
/-! PROOFS. O9 to O11: margin packets for the part, packets that are discarded, and packets for the panels (R153 to R158, R162,
R165, R171, R174). -/

namespace Sys2Proof.Machine

/-! ## The check and the packet (R154, section 9.1) -/

/-- R154: one byte into the check, most significant bit first. -/
theorem crc16Byte_eq (reg : Half) (byte : Byte) :
    crc16Byte reg byte =
      [7, 6, 5, 4, 3, 2, 1, 0].foldl
        (fun (reg : Half) i => if reg.msb ≠ byte.getLsbD i then (reg <<< 1) ^^^ 0x1021#16 else reg <<< 1) reg := by
  have bit : (fun (reg : Half) i => crc16Bit reg (byte.getLsbD i)) =
      fun (reg : Half) i => if reg.msb ≠ byte.getLsbD i then (reg <<< 1) ^^^ 0x1021#16 else reg <<< 1 := by
    funext reg i
    simp [crc16Bit]
  exact congrArg (fun step => [7, 6, 5, 4, 3, 2, 1, 0].foldl step reg) bit

/-- R154: the check is right exactly where it is the check of the bytes before it. -/
theorem checkGood_iff (b : List Byte) : checkGood b = true ↔ ∃ l, b = withCheck l := by
  constructor
  · intro good
    obtain ⟨-, same⟩ := (Bool.and_eq_true _ _).mp good
    exact ⟨_, (beq_iff_eq.mp same).symm⟩
  · rintro ⟨l, rfl⟩
    exact checkGood_withCheck l

/-! ## The reading of a margin (R153, R156) -/

theorem exec_marginPacket {s : State} (reads : s.Reads) (bytes : List Byte) :
    exec (.marginPacket bytes) s = .next (s.readPacket bytes) := congrArg Host.Outcome.next (if_pos (s.reads_iff.mp reads))

/-- R153: after the end of packets, or after the eighth packet, nothing more of the margin is read. -/
theorem exec_marginPacket_ended {s : State} (ended : s.margin.stopped = true ∨ 8 ≤ s.margin.read) (bytes : List Byte) :
    exec (.marginPacket bytes) s = .next s := by
  have silent : ¬ (s.listening && s.margin.reading) = true := by
    rw [← s.reads_iff]
    rintro ⟨-, going, few⟩
    exact ended.elim (fun stopped => Bool.false_ne_true (going.symm.trans stopped)) (by omega)
  exact congrArg Host.Outcome.next (if_neg silent)

section
variable {bytes : List Byte} {s : State}

theorem ne_nil_of_u8_ne_zero {i : Nat} (h : u8 bytes i ≠ 0) : bytes ≠ [] := by
  rintro rfl
  exact h rfl

theorem readPacket_filler (filler : u8 bytes 0 = 255) : s.readPacket bytes = s.stopMargin := by
  have nonempty : bytes ≠ [] := ne_nil_of_u8_ne_zero (i := 0) (by omega)
  rw [State.readPacket, if_neg nonempty, if_pos filler]

variable (arrived : 1 ≤ bytes.length) (packet : u8 bytes 0 ≠ 255)
include arrived packet

/-- R156: a length above 240, or a packet cut short, ends the reading. -/
theorem readPacket_cut
    (cut : bytes.length < 3 ∨ 240 < u8 bytes 2 ∨ bytes.length < u8 bytes 2 + 5) : s.readPacket bytes = s.cutPacket := by
  have nonempty : bytes ≠ [] := List.ne_nil_of_length_pos arrived
  rw [State.readPacket, if_neg nonempty, if_neg packet]
  split
  · rfl
  split
  · rfl
  split
  · rfl
  · rename_i header small whole
    rw [Config.maxBody_eq] at small
    omega

end

/-- R153: a packet read whole. -/
theorem readPacket_whole {bytes : List Byte} (packet : u8 bytes 0 ≠ 255) (small : u8 bytes 2 ≤ 240)
    (whole : bytes.length = u8 bytes 2 + 5) (s : State) : s.readPacket bytes = s.readWhole bytes := by
  have nonempty : bytes ≠ [] := List.ne_nil_of_length_pos (by omega)
  rw [State.readPacket, if_neg nonempty, if_neg packet, if_neg (by omega), if_neg (by simpa using small), if_neg (by omega),
    List.take_of_length_le (by omega)]

/-- R156: the destinations that are the part, one panel, or all panels. -/
theorem relayDestination_of_other {dest : Nat} (other : (5 ≤ dest ∧ dest ≤ 14) ∨ (16 ≤ dest ∧ dest ≤ 254)) :
    relayDestination dest = false := decide_eq_false (by omega)

/-- Settles O10: the end of the reading, then the filler, a bad check, a bad destination, a length above 240 and a packet cut
short. -/
theorem marginReading : Obligations.MarginReading := by
  refine ⟨fun bytes s _ ended => exec_marginPacket_ended ended bytes, fun bytes s reads => ?_⟩
  rw [exec_marginPacket reads]
  refine ⟨fun _ filler => ?filler, fun whole small packet bad => ?check, fun whole small good other => ?destination,
    fun header large packet => ?oversize, fun arrived cut packet => ?cutShort⟩
  case filler =>
    rw [readPacket_filler filler]
    rfl
  case check => rw [readPacket_whole packet small whole, readWhole_bad (.inl bad)]
  case destination =>
    rw [readPacket_whole (by omega) small whole, readWhole_bad (.inr ⟨by omega, relayDestination_of_other other⟩)]
  case oversize => rw [readPacket_cut (by omega) packet (.inr (.inl large)), cutPacket_eq]
  case cutShort => rw [readPacket_cut arrived packet (by omega), cutPacket_eq]

/-! ## A packet for the part (R155, R165) -/

/-- Section 9.1: a packet written for a destination is read whole, with a right check. -/
theorem exec_marginPacketOf {dest : Nat} (known : dest < 255) (code : Byte) {b : List Byte} (small : b.length ≤ 240) {s : State}
    (reads : s.Reads) :
    exec (.marginPacket (marginPacketOf dest code b)) s =
      .next (s.readOne.considerPacket (marginPacketOf dest code b)) := by
  obtain ⟨length, destination, -, count, -⟩ := marginPacketOf_fields dest (by omega) code b small
  rw [exec_marginPacket reads, readPacket_whole (by omega) (by omega) (by omega)]
  rfl

/-- R155, R165: a good packet for the part is the command that its code names. -/
theorem considerPacket_part (code : Byte) {b : List Byte} (small : b.length ≤ 240) (s : State) :
    s.considerPacket (marginPacketOf 0 code b) = considerCommand code ((commandEffect code).getD unknown) b s := by
  obtain ⟨-, destination, named, count, body, good⟩ := marginPacketOf_fields 0 (by omega) code b small
  rw [State.considerPacket, good, if_neg (by decide), if_pos destination, named, count, body]

theorem sendCommand_locked {code : Byte} {eff : List Byte → State → Answer} {b : List Byte} {s : State} (locked : s.Locked) :
    sendCommand code eff b s = considerCommand code eff b s := if_pos (s.listening_iff.mpr locked)

/-- Settles O9: the fields and the check, then the packet against the command that it carries. -/
theorem goodPacketIsItsCommand : Obligations.GoodPacketIsItsCommand := by
  refine ⟨fun b i n => ⟨rfl, congrArg (· + _) (Nat.mul_comm _ _), congrArg (· + _) (Nat.mul_comm _ _), rfl, rfl, rfl⟩,
    by decide +kernel, rfl, fun b byte => (crc16_append b byte).trans (crc16Byte_eq _ byte),
    fun b => ⟨rfl, checkGood_iff b⟩, fun _ _ _ => rfl, fun c code b s sent small reads => ?_⟩
  obtain ⟨eff, effect, sends⟩ := exec_command sent s.readOne
  have locked : s.readOne.Locked := reads.1
  rw [exec_marginPacketOf (by decide) code small reads, considerPacket_part code small, commandEffect_eq_effectOf sent effect,
    sends, sendCommand_locked locked]

/-! ## A packet for the panels (R157, R171, R174) -/

theorem considerPacket_relay {dest : Nat} (relay : (1 ≤ dest ∧ dest ≤ 4) ∨ dest = 15) (code : Byte) {b : List Byte}
    (small : b.length ≤ 240) (s : State) :
    s.considerPacket (marginPacketOf dest code b) = s.takeRelay dest (marginPacketOf dest code b) := by
  obtain ⟨-, destination, -, -, -, good⟩ := marginPacketOf_fields dest (by omega) code b small
  have relayed : relayDestination dest = true := decide_eq_true relay
  rw [State.considerPacket, good, if_neg (by decide), destination, if_neg (by omega), if_pos relayed]

/-- R171: the outputs that a packet is handed to. -/
theorem addressedBy_iff (dest : Nat) (s : State) (k : Fin 4) :
    s.addressedBy dest k = true ↔ (dest = 15 ∧ s.outputs[k].link = .up) ∨ (dest ≠ 15 ∧ dest = k.val + 1) := by
  unfold State.addressedBy
  split
  · rename_i all
    simp [all]
  · rename_i one
    simp [one]

/-- Settles O11: the packet is taken whole, and each output that it names joins it to its down queue or counts a drop. -/
theorem relayPacketJoinsDownQueues : Obligations.RelayPacketJoinsDownQueues := by
  intro dest code b s relay small reads
  obtain ⟨frame, outputs, notices⟩ := takeRelay_spec dest (marginPacketOf dest code b) s.readOne
  refine ⟨s.readOne.takeRelay dest (marginPacketOf dest code b), ?_, frame, fun k => ⟨fun unnamed => ?_, fun named => ?_⟩,
    notices.trans (State.raiseSet_notices_congr _ _ rfl)⟩
  · rw [exec_marginPacketOf (by omega) code small reads, considerPacket_relay relay code small]
  · rw [outputs, if_neg]
    · rfl
    · rw [addressedBy_iff]
      rintro (⟨toAll, up⟩ | ⟨toOne, here⟩)
      · exact unnamed.elim (fun ⟨_, down⟩ => down up) (fun ⟨one, _⟩ => one toAll)
      · exact unnamed.elim (fun ⟨all, _⟩ => toOne all) (fun ⟨_, elsewhere⟩ => elsewhere here)
  · rw [outputs, if_pos ((addressedBy_iff dest s.readOne k).mpr named)]
    exact ⟨fun room => if_pos room, fun full => if_neg full⟩

end Sys2Proof.Machine
end

section
/-! PROOFS. O42: panel packets, and units of an unknown kind on a return lane (R129, R167, R173, R174). -/

namespace Sys2Proof.Machine

/-! ## What is heard of a panel packet (R129, R167) -/

theorem exec_unknownUnit {kind : Byte} {s : State} (released : s.resetPin = false) (word : kind ≠ 1) (packet : kind ≠ 2)
    (k : Fin 4) :
    exec (.unknownUnit k kind) s =
      .next { s with outputs := s.outputs.set k { s.outputs[k] with laneMuted := true } } :=
  congrArg Host.Outcome.next
    (if_neg (not_or.mpr ⟨fun held => Bool.false_ne_true (released.symm.trans held), not_or.mpr ⟨word, packet⟩⟩))

/-- R129, R167: a packet with a bad check or too great a length, on a muted lane or under reset, changes nothing. -/
theorem exec_panelPacket_unheard {k : Fin 4} {bytes : List Byte} {s : State}
    (unheard : checkGood bytes = false ∨ 240 < u8 bytes 1 ∨ s.resetPin = true ∨ s.outputs[k].laneMuted = true) :
    exec (.panelPacket k bytes) s = .next s := by
  refine congrArg Host.Outcome.next ?_
  rcases unheard with bad | large | shut
  · simp [readPanelPacket, bad]
  · simp [readPanelPacket, Nat.not_le.mpr large]
  · split
    · rfl
    · refine if_neg ?_
      rw [State.laneOpen_iff]
      rintro ⟨released, unmuted⟩
      exact shut.elim (fun held => Bool.false_ne_true (released.symm.trans held))
        (fun muted => Bool.false_ne_true (unmuted.symm.trans muted))

/-- R167: a packet written with its code, its length and its check is read back. -/
theorem readPanelPacket_withCheck (code : Byte) {b : List Byte} (small : b.length ≤ 240) :
    readPanelPacket (withCheck ([code] ++ put8 b.length ++ b)) = some { code := code, body := b } := by
  have spelled : withCheck ([code] ++ put8 b.length ++ b) =
      code :: BitVec.ofNat 8 b.length :: (b ++ put16 (crc16 ([code] ++ put8 b.length ++ b)).toNat) := by
    simp [withCheck]
  have count : u8 (withCheck ([code] ++ put8 b.length ++ b)) 1 = b.length := by
    rw [spelled]
    simp [u8]
    omega
  have length : (withCheck ([code] ++ put8 b.length ++ b)).length = b.length + 4 := by
    rw [spelled]
    simp
  have body : ((withCheck ([code] ++ put8 b.length ++ b)).drop 2).take b.length = b := by
    rw [spelled]
    simp
  rw [readPanelPacket, count, length, if_pos ⟨small, rfl, checkGood_withCheck _⟩, body]
  rfl

theorem exec_panelPacket_heard {k : Fin 4} {s : State} (released : s.resetPin = false)
    (unmuted : s.outputs[k].laneMuted = false) (code : Byte) {b : List Byte} (small : b.length ≤ 240) :
    exec (.panelPacket k (withCheck ([code] ++ put8 b.length ++ b))) s = .next (s.joinUp k { code := code, body := b }) := by
  refine congrArg Host.Outcome.next ?_
  rw [readPanelPacket_withCheck code small]
  exact if_pos ((State.laneOpen_iff k s).mpr ⟨released, unmuted⟩)

/-! ## The up queue (R173, R174) -/

theorem Output.linked_iff (o : Output) : o.linked = true ↔ o.link = .up ∨ o.link = .misfit := by simp [Output.linked]

section
variable {k : Fin 4} {s : State}

theorem joinUp_unlinked (unlinked : s.outputs[k].linked = false) (p : PanelPacket) : s.joinUp k p = s := by
  rw [State.joinUp, unlinked]
  rfl

variable (linked : s.outputs[k].linked = true)
include linked

theorem joinUp_joins (room : s.outputs[k].up.length < 4) (p : PanelPacket) :
    s.joinUp k p = { s with outputs := s.outputs.set k { s.outputs[k] with up := s.outputs[k].up ++ [p] } } := by
  rw [State.joinUp, linked]
  exact if_pos room

theorem joinUp_drops (full : 4 ≤ s.outputs[k].up.length) (p : PanelPacket) :
    s.joinUp k p =
      State.raise .relayDrop (addMembers (BitVec.ofNat 32 (2 ^ k.val)))
        { s with outputs := s.outputs.set k { s.outputs[k] with upDrops := s.outputs[k].upDrops + 1 } } := by
  rw [State.joinUp, linked]
  exact (if_neg (Nat.not_lt.mpr full)).trans (if_neg (member_ne_zero k))

end

/-- Settles O42: units of an unknown kind, packets that are not heard, and the up queue of the panel that a packet comes from. -/
theorem panelUnitsHandled : Obligations.PanelUnitsHandled := by
  intro k s
  refine ⟨fun kind released word packet => exec_unknownUnit released word packet k,
    fun bytes unheard => exec_panelPacket_unheard unheard, fun code b small released unmuted => ?_⟩
  rw [exec_panelPacket_heard released unmuted code small]
  refine ⟨fun up misfit => ?_, fun linked => ?_⟩
  · have unlinked : s.outputs[k].linked = false :=
      Bool.eq_false_iff.mpr (mt s.outputs[k].linked_iff.mp (not_or.mpr ⟨up, misfit⟩))
    rw [joinUp_unlinked unlinked]
  · have linked := s.outputs[k].linked_iff.mpr linked
    exact ⟨fun room => congrArg Host.Outcome.next (joinUp_joins linked room _),
      fun full => congrArg Host.Outcome.next (joinUp_drops linked full _)⟩

end Sys2Proof.Machine
end

section
/-! PROOFS. O53: what the return arbiter sends in a return slot (R160, R166, R168 to R170, R173). -/

namespace Sys2Proof.Machine

/-! ## The notice of highest priority and lowest number (R170) -/

/-- R170: a source chosen is one of the given ones, and it is pending. -/
theorem chooseNotice_mem {notices : Vector Notice 14} {sources : List (Fin 14)} {i : Fin 14}
    (chosen : chooseNotice notices sources = some i) : i ∈ sources ∧ notices[i].held ≠ none := by
  induction sources with
  | nil => cases chosen
  | cons x rest ih =>
    have later (elsewhere : chooseNotice notices rest = some i) : i ∈ x :: rest ∧ notices[i].held ≠ none :=
      (ih elsewhere).imp_left (List.mem_cons_of_mem x)
    rw [chooseNotice] at chosen
    split at chosen
    · rename_i pending
      have first : x ∈ x :: rest ∧ notices[x].held ≠ none := ⟨List.mem_cons_self, Option.isSome_iff_ne_none.mp pending⟩
      unfold betterNotice at chosen
      split at chosen
      · exact Option.some.inj chosen ▸ first
      · rename_i j best
        split at chosen
        · exact Option.some.inj chosen ▸ first
        · exact later (best.trans chosen)
    · exact later chosen

/-- R170: no source is chosen exactly when none of the given ones is pending. -/
theorem chooseNotice_eq_none_iff (notices : Vector Notice 14) (sources : List (Fin 14)) :
    chooseNotice notices sources = none ↔ ∀ i ∈ sources, notices[i].held = none := by
  induction sources with
  | nil => simp [chooseNotice]
  | cons x rest ih =>
    rw [chooseNotice, List.forall_mem_cons, ← ih]
    split
    · rename_i pending
      have chosen : betterNotice notices x (chooseNotice notices rest) ≠ none := by
        unfold betterNotice
        split
        · exact nofun
        · split <;> exact nofun
      exact iff_of_false chosen (fun silent => Option.isSome_iff_ne_none.mp pending silent.1)
    · rename_i silent
      exact (and_iff_right (Option.not_isSome_iff_eq_none.mp silent)).symm

/-- R170: a source comes first among the given ones when every pending one has a lower priority, or the same and no lower
number. -/
def ComesFirst (notices : Vector Notice 14) (sources : List (Fin 14)) (i : Fin 14) : Prop :=
  ∀ j ∈ sources, notices[j].held ≠ none →
    notices[j].priority < notices[i].priority ∨ (notices[j].priority = notices[i].priority ∧ i ≤ j)

/-- R170: of sources in rising number, the pending one that comes first is chosen. -/
theorem chooseNotice_eq_some {notices : Vector Notice 14} {sources : List (Fin 14)} (rising : sources.Pairwise (· < ·))
    {i : Fin 14} (listed : i ∈ sources) (pending : notices[i].held ≠ none) (first : ComesFirst notices sources i) :
    chooseNotice notices sources = some i := by
  induction sources with
  | nil => cases listed
  | cons x rest ih =>
    obtain ⟨below, rising⟩ := List.pairwise_cons.mp rising
    rw [chooseNotice]
    rcases List.mem_cons.mp listed with rfl | later
    · rw [if_pos (Option.isSome_iff_ne_none.mpr pending)]
      cases best : chooseNotice notices rest with
      | none => rfl
      | some j =>
        obtain ⟨among, held⟩ := chooseNotice_mem best
        exact if_pos ((first j (List.mem_cons_of_mem i among) held).elim le_of_lt (fun same => same.1.le))
    · rw [ih rising later (fun j among => first j (List.mem_cons_of_mem x among))]
      split
      · rename_i before
        have lower : notices[x].priority < notices[i].priority :=
          (first x List.mem_cons_self (Option.isSome_iff_ne_none.mp before)).resolve_right
            (fun same => absurd (below i later) (not_lt.mpr same.2))
        exact if_neg (not_le.mpr lower)
      · rfl

theorem mem_plainSources_iff (i : Fin 14) : i ∈ plainSources ↔ 2 ≤ i.val := by
  revert i
  decide

theorem plainSources_rising : plainSources.Pairwise (· < ·) := by decide

/-! ## The first output from the relay pointer on (R169) -/

theorem relayOrder_getElem (p j : Fin 4) : [p, p + 1, p + 2, p + 3][j] = p + j := by
  revert p j
  decide

theorem mem_relayOrder (p k : Fin 4) : k ∈ [p, p + 1, p + 2, p + 3] := by
  revert p k
  decide

theorem chooseRelay_eq_none_iff (outputs : Vector Output 4) (p : Fin 4) :
    chooseRelay outputs p = none ↔ ∀ k : Fin 4, outputs[k].up = [] := by
  rw [chooseRelay, List.find?_eq_none]
  refine ⟨fun empty k => by simpa using empty k (mem_relayOrder p k), fun empty k _ => ?_⟩
  rw [empty k]
  decide

/-- R169: the output chosen has a packet waiting, and those from the relay pointer up to it have none. -/
theorem chooseRelay_eq_some {outputs : Vector Output 4} {p j : Fin 4} (waiting : outputs[p + j].up ≠ [])
    (before : ∀ i : Fin 4, i < j → outputs[p + i].up = []) : chooseRelay outputs p = some (p + j) := by
  refine List.find?_eq_some_iff_getElem.mpr ⟨by simpa using waiting, j.val, j.isLt, relayOrder_getElem p j, fun i earlier => ?_⟩
  have listed : i < [p, p + 1, p + 2, p + 3].length := earlier.trans j.isLt
  have place : [p, p + 1, p + 2, p + 3][i] = p + ⟨i, listed⟩ := relayOrder_getElem p ⟨i, listed⟩
  have empty : outputs[[p, p + 1, p + 2, p + 3][i]].up = [] :=
    (congrArg (fun k : Fin 4 => outputs[k].up) place).trans (before ⟨i, listed⟩ earlier)
  rw [empty]
  rfl

/-! ## One class served (R169, R170) -/

section
variable {s : State}

theorem serve_reply_eq_none_iff : s.serve .reply = none ↔ s.margin.replies = [] := by
  cases waiting : s.margin.replies <;> simp [State.serve, State.serveReply, waiting]

theorem serve_relay_eq_none_iff : s.serve .relay = none ↔ ∀ k : Fin 4, s.outputs[k].up = [] := by
  rw [← chooseRelay_eq_none_iff s.outputs s.lane.relayPointer]
  cases chosen : chooseRelay s.outputs s.lane.relayPointer with
  | none => simp [State.serve, State.serveRelay, chosen]
  | some k =>
    have nonempty : s.outputs[k].up ≠ [] := by simpa using List.find?_some chosen
    obtain ⟨p, rest, waiting⟩ := List.exists_cons_of_ne_nil nonempty
    simp only [State.serve, State.serveRelay, chosen, waiting, reduceCtorEq]

theorem serve_notice_eq_none_iff : s.serve .notice = none ↔ ∀ i : Fin 14, 2 ≤ i.val → s.notices[i].held = none := by
  simp only [← mem_plainSources_iff]
  rw [← chooseNotice_eq_none_iff]
  cases chosen : chooseNotice s.notices plainSources <;> simp [State.serve, State.serveNotice, chosen]

/-- R169, 3: the oldest reply. -/
theorem serve_reply {r : Reply} {rest : List Reply} (waiting : s.margin.replies = r :: rest) :
    s.serve .reply =
      some (({ s with margin := { s.margin with replies := rest } }.pointClass .relay).sendReturn
        (some (returnPacket 1 r.code.toNat r.result.code r.body))) := by
  simp only [State.serve, State.serveReply, waiting]

/-- R169, 4: the oldest packet of the first up queue from the relay pointer on. -/
theorem serve_relay {j : Fin 4} {p : PanelPacket} {rest : List PanelPacket}
    (waiting : s.outputs[s.lane.relayPointer + j].up = p :: rest)
    (before : ∀ i : Fin 4, i < j → s.outputs[s.lane.relayPointer + i].up = []) :
    s.serve .relay = some (s.sendRelay (s.lane.relayPointer + j) p rest) := by
  have chosen := chooseRelay_eq_some (waiting ▸ List.cons_ne_nil p rest) before
  simp only [State.serve, State.serveRelay, chosen, waiting]

/-- R169, 5, R170: the pending plain source that comes first. -/
theorem serve_notice {i : Fin 14} {d : Word} (plain : 2 ≤ i.val) (pending : s.notices[i].held = some d)
    (first : ComesFirst s.notices plainSources i) : s.serve .notice = some ((s.pointClass .reply).sendNotice i d) := by
  have chosen := chooseNotice_eq_some plainSources_rising ((mem_plainSources_iff i).mpr plain) (pending ▸ nofun) first
  simp only [State.serve, State.serveNotice, chosen, pending, Option.getD_some]

end

/-! ## The arbiter's choice (R168, R169) -/

/-- R169: the class after a class in the cyclic order. -/
def ReturnClass.next : ReturnClass → ReturnClass
  | .reply => .relay
  | .relay => .notice
  | .notice => .reply

theorem ReturnClass.cycle_eq (c : ReturnClass) : c.cycle = [c, c.next, c.next.next] := by cases c <;> rfl

theorem ReturnClass.next_next_next (c : ReturnClass) : c.next.next.next = c := by cases c <;> rfl

section
variable {s : State}

theorem exec_returnSlot (locked : s.Locked) : exec .returnSlot s = .next s.arbitrate :=
  congrArg Host.Outcome.next (if_pos (s.listening_iff.mpr locked))

/-- R169, 1: a severe notice goes first, and RESTARTED before FEED_DARK. -/
theorem arbitrate_severe {i : Fin 14} {d : Word} (pending : s.notices[i].held = some d)
    (severe : i.val = 0 ∨ (i.val = 1 ∧ s.notices[0].held = none)) : s.arbitrate = s.sendNotice i d := by
  have chosen : severePending s.notices = some i := by
    unfold severePending
    rcases severe with restarted | ⟨dark, silent⟩
    · obtain rfl : i = 0 := Fin.ext restarted
      exact if_pos (Option.isSome_of_eq_some pending)
    · obtain rfl : i = 1 := Fin.ext dark
      rw [silent]
      exact if_pos (Option.isSome_of_eq_some pending)
  simp only [State.arbitrate, chosen, pending, Option.getD_some]

variable (restarted : s.notices[0].held = none) (dark : s.notices[1].held = none)
include restarted dark

theorem arbitrate_plain :
    s.arbitrate = (s.lane.classPointer.cycle.findSome? (fun c => s.serve c)).getD (s.sendReturn none) := by
  have quiet : severePending s.notices = none := by simp [severePending, restarted, dark]
  rw [State.arbitrate, quiet]

/-- R169, 2: a class is served when the class pointer has it, or when it has a class from which on every class before it has
nothing. -/
theorem arbitrate_turn {c : ReturnClass} {t : State} (served : s.serve c = some t)
    (turn : s.lane.classPointer = c ∨
      (s.lane.classPointer = c.next ∧ s.serve c.next = none ∧ s.serve c.next.next = none) ∨
      (s.lane.classPointer = c.next.next ∧ s.serve c.next.next = none)) : s.arbitrate = t := by
  rw [arbitrate_plain restarted dark, ReturnClass.cycle_eq]
  rcases turn with here | ⟨after, nothing, last⟩ | ⟨before, last⟩
  · rw [here, List.findSome?_cons, served]
    rfl
  · rw [after, ReturnClass.next_next_next, List.findSome?_cons, nothing, List.findSome?_cons, last, List.findSome?_cons, served]
    rfl
  · rw [before, ReturnClass.next_next_next, List.findSome?_cons, last, List.findSome?_cons, served]
    rfl

/-- R169, 2: an empty slot. -/
theorem arbitrate_empty (idle : ∀ c, s.serve c = none) : s.arbitrate = s.sendReturn none := by
  have nothing : s.lane.classPointer.cycle.findSome? (fun c => s.serve c) = none :=
    List.findSome?_eq_none_iff.mpr (fun c _ => idle c)
  rw [arbitrate_plain restarted dark, nothing]
  rfl

end

/-! ## The statement -/

theorem returnPacket_eq (kind tag result : Nat) (body : List Byte) :
    returnPacket kind tag result body =
      withCheck ([BitVec.ofNat 8 kind, BitVec.ofNat 8 tag, BitVec.ofNat 8 result, BitVec.ofNat 8 body.length] ++ body) := rfl

/-- Settles O53: a severe notice; then, by the class pointer, the oldest reply, the first up queue or the first notice; and the
slot that no class fills. -/
theorem returnSlotServes : Obligations.ReturnSlotServes := by
  refine ⟨rfl, fun s hasReply hasRelay hasNotice locked reply relay notice => ?_⟩
  have noReply : ¬ hasReply ↔ s.serve .reply = none := by simp [reply, serve_reply_eq_none_iff]
  have noRelay : ¬ hasRelay ↔ s.serve .relay = none := by simp [relay, serve_relay_eq_none_iff]
  have noNotice : ¬ hasNotice ↔ s.serve .notice = none := by simp [notice, serve_notice_eq_none_iff]
  rw [exec_returnSlot locked, noReply, noRelay, noNotice]
  refine ⟨fun i d pending severe => ?severe, fun restarted dark => ⟨fun r rest waiting turn => ?reply,
    fun k p rest waiting nearest turn => ?relay, fun i d plain pending first turn => ?notice,
    fun noReply noRelay noNotice => ?empty⟩⟩
  case severe =>
    rw [arbitrate_severe pending severe, State.sendNotice, returnPacket_eq]
    rfl
  case reply =>
    rw [arbitrate_turn restarted dark (serve_reply waiting) turn, returnPacket_eq, BitVec.ofNat_toNat, BitVec.setWidth_eq]
    rfl
  case relay =>
    obtain ⟨j, rfl, before⟩ := nearest
    rw [arbitrate_turn restarted dark (serve_relay waiting before) turn, State.sendRelay, returnPacket_eq,
      BitVec.ofNat_toNat, BitVec.setWidth_eq]
    rfl
  case notice =>
    have comesFirst : ComesFirst s.notices plainSources i := fun j listed => first j ((mem_plainSources_iff j).mp listed)
    rw [arbitrate_turn restarted dark (serve_notice plain pending comesFirst) turn]
    rfl
  case empty =>
    have idle : ∀ c, s.serve c = none
      | .reply => noReply
      | .relay => noRelay
      | .notice => noNotice
    rw [arbitrate_empty restarted dark idle]
    rfl

end Sys2Proof.Machine
end

section
/-! PROOFS. O52: STATUS returns its snapshot and clears the latches (R177, R178). -/

namespace Sys2Proof.Machine

theorem exec_status {s : State} (taken : s.Takes) (b : List Byte) :
    exec (.status b) s = .next ((status b s.countTaken).settle 0x90) := congrArg Host.Outcome.next (sendCommand_takes taken)

theorem status_badLength {b : List Byte} (length : b.length ≠ 0) (s : State) : status b s = .refuse s .badLength :=
  if_pos length

theorem status_answers {b : List Byte} (length : b.length = 0) (s : State) :
    status b s = .done s.clearLatches (statusBody s) := if_neg (not_not.mpr length)

/-! ## The parts of the snapshot (R177) -/

/-- A body of one part for each of four records, in their order. -/
theorem toList_flatMap_four {α : Type} (v : Vector α 4) (part : α → List Byte) :
    v.toList.flatMap part = part v[0] ++ part v[1] ++ part v[2] ++ part v[3] := by
  have listed : v.toList = (List.finRange 4).map (fun k => v[k]) := List.ext_getElem (by simp) (fun i _ _ => by simp)
  rw [listed, List.flatMap_map, flatMap_four]
  rfl

theorem Output.latchesBody_eq (o : Output) :
    o.latchesBody =
      [BitVec.ofNat 8 o.link.code, if o.dropLatch then 1 else 0, if o.faultLatch then 1 else 0] := by
  simp [Output.latchesBody, putFlag_eq]

theorem Group.statusBody_eq (g : Group) :
    g.statusBody = [BitVec.ofNat 8 g.shown.code, BitVec.ofNat 8 g.flip.code, if g.phase = .free then 0 else 1] := by
  cases phase : g.phase <;> simp [Group.statusBody, putFlag_eq, Group.holding, phase]

/-- R177: the body in LOCKED, the one state in which STATUS is taken. -/
theorem statusBody_locked {s : State} (locked : s.feed.state = .locked) :
    statusBody s =
      put32 s.feed.frameNumber.toNat ++ ([2, if s.feed.lost then 1 else 0] : List Byte) ++ put32 s.margin.taken.toNat ++
        put32 s.margin.bad.toNat ++ put32 s.margin.turnedAway.toNat ++
        (s.outputs[0].dropsBody ++ s.outputs[1].dropsBody ++ s.outputs[2].dropsBody ++ s.outputs[3].dropsBody) ++
        (s.outputs[0].latchesBody ++ s.outputs[1].latchesBody ++ s.outputs[2].latchesBody ++ s.outputs[3].latchesBody) ++
        (s.groups[0].statusBody ++ s.groups[1].statusBody ++ s.groups[2].statusBody ++ s.groups[3].statusBody) ++
        (([if s.clock.running then 1 else 0, BitVec.ofNat 8 s.clock.day] : List Byte) ++ put32 s.clock.second) ++
        put16 (freeBlocks s.art) ++ [BitVec.ofNat 8 s.margin.replies.length] := by
  simp only [statusBody, clockBody, locked, toList_flatMap_four, putFlag_eq, put8_eq]
  simp [FeedState.code]

/-! ## The latches (R178) -/

/-- R178: each output loses both its latches. -/
theorem clearLatches_outputs_getElem (s : State) (k : Fin 4) :
    s.clearLatches.outputs[k] = { s.outputs[k] with faultLatch := false, dropLatch := false } := getElem_tab _ _ _

/-- Settles O52: a body is refused; without one, the snapshot of the state that already counts the STATUS, and the latches
cleared. -/
theorem statusSnapshot : Obligations.StatusSnapshot := by
  intro b s taken
  refine ⟨fun length => ?refused, fun length => ?answered⟩
  case refused => rw [exec_status taken, status_badLength length, settle_refuse]
  case answered =>
    have locked : s.countTaken.feed.state = .locked := taken.1.2
    refine ⟨fun k => s.outputs[k].dropsBody, fun k => s.outputs[k].latchesBody, fun g => s.groups[g].statusBody,
      statusBody s.countTaken, s.clearLatches.outputs, fun _ => rfl, fun k => s.outputs[k].latchesBody_eq,
      fun g => s.groups[g].statusBody_eq, statusBody_locked locked, length_statusBody _,
      clearLatches_outputs_getElem s, ?_⟩
    rw [exec_status taken, status_answers length]
    rfl

end Sys2Proof.Machine
end

section
/-! PROOFS. O21 and O22: how raises coalesce in a notice source, and NOTICE PUT (R35, R62, R78, R162, R175, R176). -/

namespace Sys2Proof.Machine

/-! ## Details that merge (R35, R78, R162, R175) -/

/-- R175: sets merge member by member. -/
theorem addMembers_getLsbD (set : Word) (held : Option Word) (i : Nat) :
    (addMembers set held).getLsbD i = ((held.getD 0).getLsbD i || set.getLsbD i) := BitVec.getLsbD_or

/-- R78: counts add up and stay at 65535. -/
theorem addCount_toNat (n : Nat) (held : Option Word) :
    (addCount n held).toNat = min 65535 ((held.getD 0).toNat + n) := by
  rw [addCount, BitVec.toNat_ofNat]
  omega

/-- R35: a slot number is a detail of its own size. -/
theorem keepLowest_none_toNat {n : Nat} (slot : n < 256) : (keepLowest n none).toNat = n := by
  rw [keepLowest, BitVec.toNat_ofNat]
  omega

/-- R35: of the detail and a slot number the smaller stays. -/
theorem keepLowest_some_toNat (n : Nat) (d : Word) : (keepLowest n (some d)).toNat = min d.toNat n := by
  have fits := d.isLt
  rw [keepLowest, BitVec.toNat_ofNat]
  omega

/-- R162: the two counts fill the detail without a carry from the lower into the upper. -/
theorem addFaults_toNat (x y : Nat) (held : Option Word) :
    (addFaults x y held).toNat =
      min 65535 ((held.getD 0).toNat / 65536 + x) * 65536 + min 65535 ((held.getD 0).toNat % 65536 + y) := by
  rw [addFaults, BitVec.toNat_ofNat]
  omega

theorem addFaults_halves (x y : Nat) (held : Option Word) :
    (addFaults x y held).toNat / 65536 = min 65535 ((held.getD 0).toNat / 65536 + x) ∧
      (addFaults x y held).toNat % 65536 = min 65535 ((held.getD 0).toNat % 65536 + y) := by
  rw [addFaults_toNat]
  omega

/-- Settles O21: the sources by number, the raises that are none or several, a raise by its source's priority, and each way in
which details merge. -/
theorem raisesCoalesce : Obligations.RaisesCoalesce := by
  refine ⟨by decide, fun _ _ _ _ _ => ⟨rfl, rfl, rfl, rfl⟩, fourWord_getLsbD,
    fun _ _ _ => ⟨State.raise_of_zero, State.raise_of_ne_zero⟩, fun set d i => ⟨?firstSet, addMembers_getLsbD set (some d) i⟩,
    fun n d => ⟨?firstCount, addCount_toNat n (some d)⟩,
    fun n d slot => ⟨keepLowest_none_toNat slot, keepLowest_some_toNat n d⟩, addFaults_halves⟩
  case firstSet => simp [addMembers_getLsbD]
  case firstCount => simp [addCount_toNat]

/-! ## NOTICE PUT (R176) -/

theorem exec_noticePut {s : State} (taken : s.Takes) (b : List Byte) :
    exec (.noticePut b) s = .next ((noticePut b s.countTaken).settle 0x91) := congrArg Host.Outcome.next (sendCommand_takes taken)

section
variable {b : List Byte}

theorem noticePut_badLength (length : b.length ≠ 2) (s : State) : noticePut b s = .refuse s .badLength := if_pos length

variable (length : b.length = 2)
include length

theorem noticePut_badField (out : u8 b 0 ≤ 2 ∨ 14 < u8 b 0 ∨ 7 < u8 b 1) (s : State) :
    noticePut b s = .refuse s .badField :=
  (if_neg (not_not.mpr length)).trans (if_pos (out.imp_left Nat.lt_succ_of_le))

/-- R176: the plain source named takes its priority, and the reply reads it back. -/
theorem noticePut_sets {i : Fin 14} (plain : 2 ≤ i.val) (named : u8 b 0 = i.val + 1) (priority : u8 b 1 ≤ 7) (s : State) :
    noticePut b s =
      .done { s with notices := s.notices.set i (s.notices[i].prioritised (u8 b 1)) }
        (put8 (u8 b 0) ++ put8 (u8 b 1) ++ putFlag (s.notices[i].prioritised (u8 b 1)).held.isSome) := by
  have inside : ¬ (u8 b 0 < 3 ∨ 14 < u8 b 0 ∨ 7 < u8 b 1) := by omega
  have source : Fin.ofNat 14 (u8 b 0 - 1) = i := finOfNat_eq (by omega)
  rw [noticePut, if_neg (not_not.mpr length), if_neg inside]
  subst source
  rfl

end

/-- Settles O22: the refusals, then the source with its new priority and its detail kept or cleared. -/
theorem noticePutSets : Obligations.NoticePutSets := by
  intro b s taken
  rw [exec_noticePut taken]
  refine ⟨fun length => ?_, fun length out => ?_, fun length priority i plain named => ?_⟩
  · rw [noticePut_badLength length, settle_refuse]
  · rw [noticePut_badField length out, settle_refuse]
  · refine ⟨s.notices[i].prioritised (u8 b 1), rfl, fun zero => if_pos zero, fun positive => if_neg positive, ?_⟩
    rw [noticePut_sets length plain named priority, putFlag_eq]
    rfl

end Sys2Proof.Machine
end

section
/-! PROOFS. O54: ART OPEN, ART WRITE and ART CLOSE, and the content's check (R179 to R183). -/

namespace Sys2Proof.Machine

/-! ## The check of the content (R180) -/

/-- R180: the worked value of the check of the nine digits. -/
theorem crc32_nineDigits :
    crc32 [0x31, 0x32, 0x33, 0x34, 0x35, 0x36, 0x37, 0x38, 0x39] = 0xCBF43926 := by decide +kernel

/-- R180: one byte into the register, shift by shift. -/
theorem crc32Byte_eq (reg : Word) (byte : Byte) :
    crc32Byte reg byte =
      (List.range 8).foldl (fun (reg : Word) _ => if reg.getLsbD 0 then (reg >>> 1) ^^^ 0xEDB88320#32 else reg >>> 1)
        (reg ^^^ byte.zeroExtend 32) := rfl

/-! ## Kind and number of an entry (R179) -/

theorem artPlace_eq_some {kind number place : Nat} :
    artPlace kind number = some place ↔
      (kind = 0 ∧ number < 4 ∧ place = number) ∨ (kind = 1 ∧ 1 ≤ number ∧ number < 64 ∧ place = number + 3) := by
  unfold artPlace
  split_ifs <;> simp only [Option.some.injEq, false_iff] <;> omega

theorem artPlace_eq_none {kind number : Nat}
    (out : 1 < kind ∨ (kind = 0 ∧ 3 < number) ∨ (kind = 1 ∧ (number = 0 ∨ 63 < number))) :
    artPlace kind number = none := by
  rw [Option.eq_none_iff_forall_ne_some]
  intro place named
  have inside := artPlace_eq_some.mp named
  omega

/-! ## The store (R179, R181, R182) -/

theorem blocksAt_eq (art : Art) (place : Nat) :
    blocksAt art place = ((Table.find? art place).map (fun e => e.shape.blocks)).getD 0 := by
  unfold blocksAt
  cases Table.find? art place <;> rfl

theorem openAt_eq_none {art : Art} {place : Nat} (closed : ∀ e, Table.find? art place = some e → e.ready = true) :
    openAt art place = none := by
  rw [Option.eq_none_iff_forall_ne_some]
  intro e isOpen
  obtain ⟨listed, waiting⟩ := openAt_eq_some.mp isOpen
  exact Bool.false_ne_true (waiting.symm.trans (closed e listed))

theorem otherOpen_eq_none {art : Art} {place : Nat} (ready : ∀ e ∈ art, e.1 ≠ place → e.2.ready = true) :
    otherOpen art place = none := by
  simp only [otherOpen, Option.map_eq_none_iff, List.find?_eq_none]
  intro e listed both
  obtain ⟨other, waiting⟩ := (Bool.and_eq_true _ _).mp both
  simp [ready e listed (bne_iff_ne.mp other)] at waiting

/-- R179: an OPEN entry of a legal store is the one that another place finds OPEN. -/
theorem otherOpen_eq_some {art : Art} (ok : ArtOk art) {n place : Nat} {e : ArtEntry} (listed : (n, e) ∈ art)
    (waiting : e.ready = false) (other : n ≠ place) : otherOpen art place = some n := by
  cases found : art.find? (fun f => f.1 != place && !f.2.ready) with
  | none =>
    have passed := List.find?_eq_none.mp found (n, e) listed
    simp [other, waiting] at passed
  | some f =>
    have passes := List.find?_some found
    have isOpen : f.2.ready = false := (Bool.not_eq_true' _).mp ((Bool.and_eq_true _ _).mp passes).2
    have one : f.1 = n := ok.2.2.1 f (List.mem_of_find?_eq_some found) (n, e) listed isOpen waiting
    rw [otherOpen, found, Option.map_some, one]

theorem placeName_eq (n : Nat) :
    placeName n = if n < 4 then [0, BitVec.ofNat 8 n] else [1, BitVec.ofNat 8 (n - 3)] := rfl

/-- R181: the blocks that an opened entry takes come from the free ones and from its own. -/
theorem freeBlocks_openEntry {art : Art} (ok : ArtOk art) {place : Nat} {shape : Shape}
    (room : shape.blocks ≤ freeBlocks art + blocksAt art place) :
    freeBlocks (openEntry art place shape) + shape.blocks = freeBlocks art + blocksAt art place := by
  obtain ⟨rising, -, -, used⟩ := ok
  have exchanged := usedBlocks_insert rising place { ready := false, shape := shape, content := [] }
  rw [← blocksAt_eq] at exchanged
  dsimp only at exchanged
  simp only [freeBlocks, openEntry, Config.artBlocks_eq] at room ⊢
  omega

/-- R183, R184: an erased entry's blocks are free again. -/
theorem freeBlocks_erase {art : Art} (ok : ArtOk art) {place : Nat} {e : ArtEntry}
    (listed : Table.find? art place = some e) :
    freeBlocks (Table.erase art place) = freeBlocks art + e.shape.blocks := by
  obtain ⟨rising, -, -, used⟩ := ok
  have freed := usedBlocks_erase rising place
  simp only [listed, Option.map_some, Option.getD_some] at freed
  simp only [freeBlocks, Config.artBlocks_eq]
  omega

/-! ## The replies that leave another store -/

theorem settle_done_art (code : Byte) (s : State) (art : Art) (body : List Byte) :
    (Answer.done { s.countTaken with art := art } body).settle code =
      ({ s with art := art } : State).replied code .done body := rfl

theorem settle_refuseWith_art (code : Byte) (s : State) (art : Art) (r : ResultCode) (body : List Byte) :
    (Answer.refuseWith { s.countTaken with art := art } r body).settle code =
      ({ s with art := art } : State).replied code r body := rfl

/-! ## ART OPEN (R181) -/

theorem exec_artOpen {s : State} (taken : s.Takes) (b : List Byte) :
    exec (.artOpen b) s = .next ((artOpen b s.countTaken).settle 0xA0) := congrArg Host.Outcome.next (sendCommand_takes taken)

section
variable {b : List Byte} {place : Nat}

theorem artOpen_short (short : b.length < 2) (s : State) : artOpen b s = .refuse s .badLength := if_pos short

theorem artOpen_unnamed (long : 2 ≤ b.length) (unnamed : artPlace (u8 b 0) (u8 b 1) = none) (s : State) :
    artOpen b s = .refuse s .badField := by
  rw [artOpen, if_neg (by omega), unnamed]

theorem artOpen_badLength (long : 2 ≤ b.length) (named : artPlace (u8 b 0) (u8 b 1) = some place)
    (length : b.length ≠ if u8 b 0 = 0 then 33 else 9) (s : State) : artOpen b s = .refuse s .badLength := by
  simp only [artOpen, if_neg (show ¬ b.length < 2 by omega), named, if_pos length]

theorem artOpen_named (named : artPlace (u8 b 0) (u8 b 1) = some place)
    (length : b.length = if u8 b 0 = 0 then 33 else 9) (s : State) :
    artOpen b s = if (readShape b).good then artOpenAt place (readShape b) s else .refuse s .badField := by
  have long : ¬ b.length < 2 := by split at length <;> omega
  simp only [artOpen, if_neg long, named, if_neg (not_not.mpr length)]
  cases (readShape b).good <;> rfl

/-- R181: the advances of a glyph set are the bytes from offset 4 on. -/
theorem advances_ne_zero_iff (length : b.length = 33) :
    (∀ a ∈ (b.drop 4).map (·.toNat), a ≠ 0) ↔ ∀ i, 4 ≤ i → i < 33 → u8 b i ≠ 0 := by
  have byte : ∀ i, (h : i < b.length) → (b[i]).toNat = u8 b i := fun i h => by simp [u8, h]
  simp only [List.forall_mem_iff_getElem, List.length_map, List.length_drop, List.getElem_map, List.getElem_drop, byte]
  constructor
  · intro each i low high
    have := each (i - 4) (by omega)
    rwa [show 4 + (i - 4) = i by omega] at this
  · exact fun each i inside => each (4 + i) (by omega) (by omega)

/-- R181: the shape that a body of the right length carries, and when its fields are in range. -/
theorem readShape_cases {shape : Shape} {good : Prop}
    (carried :
      (u8 b 0 = 0 ∧ b.length = 33 ∧ shape = .glyphSet (u16 b 2) ((b.drop 4).map (·.toNat)) ∧
          (good ↔ 8 ≤ u16 b 2 ∧ u16 b 2 ≤ 256 ∧ ∀ i, 4 ≤ i → i < 33 → u8 b i ≠ 0)) ∨
        (u8 b 0 = 1 ∧ b.length = 9 ∧ shape = .card (u16 b 2) (u16 b 4) (rgb b 6) ∧
          (good ↔ 1 ≤ u16 b 2 ∧ u16 b 2 ≤ 1024 ∧ 1 ≤ u16 b 4 ∧ u16 b 4 ≤ 1024))) :
    (b.length = if u8 b 0 = 0 then 33 else 9) ∧ readShape b = shape ∧ (shape.good = true ↔ good) := by
  rcases carried with ⟨kind, length, rfl, fields⟩ | ⟨kind, length, rfl, fields⟩
  · refine ⟨by rw [if_pos kind, length], if_pos kind, ?_⟩
    rw [fields, (shape_good_iff _ 0 _ ⟨0, 0, 0⟩).1, advances_ne_zero_iff length]
  · have card : u8 b 0 ≠ 0 := by omega
    refine ⟨by rw [if_neg card, length], if_neg card, ?_⟩
    rw [fields, (shape_good_iff _ _ [] _).2]

end

section
variable {s : State} {place : Nat} {shape : Shape}

theorem artOpenAt_wrongState {other : Nat} (waiting : otherOpen s.art place = some other) :
    artOpenAt place shape s = .refuseWith s .wrongState (placeName other) := by
  rw [artOpenAt, waiting]

variable (alone : otherOpen s.art place = none)
include alone

theorem artOpenAt_inUse (used : captureUses s.groups place = true) : artOpenAt place shape s = .refuse s .inUse := by
  simp only [artOpenAt, alone, if_pos used]

variable (unused : captureUses s.groups place = false)
include unused

theorem artOpenAt_full (much : freeBlocks s.art + blocksAt s.art place < shape.blocks) :
    artOpenAt place shape s = .refuse s .full := by
  simp only [artOpenAt, alone, unused, Bool.false_eq_true, if_false, if_pos much]

theorem artOpenAt_opens (room : shape.blocks ≤ freeBlocks s.art + blocksAt s.art place) :
    artOpenAt place shape s = .done { s with art := openEntry s.art place shape } (openBody s.art place shape) := by
  simp only [artOpenAt, alone, unused, Bool.false_eq_true, if_false, if_neg (Nat.not_lt.mpr room)]

end

/-- R181: an ART OPEN that passes takes the blocks and begins at cursor 0. -/
theorem exec_artOpen_opens {b : List Byte} {s : State} {place : Nat} (taken : s.Takes)
    (named : artPlace (u8 b 0) (u8 b 1) = some place) (length : b.length = if u8 b 0 = 0 then 33 else 9)
    (good : (readShape b).good = true) (alone : otherOpen s.art place = none) (unused : captureUses s.groups place = false)
    (room : (readShape b).blocks ≤ freeBlocks s.art + blocksAt s.art place) (ok : ArtOk s.art) :
    ∃ art : Art,
      Table.find? art place = some { ready := false, shape := readShape b, content := [] } ∧
      (∀ n, n ≠ place → Table.find? art n = Table.find? s.art n) ∧
      freeBlocks art + (readShape b).blocks = freeBlocks s.art + blocksAt s.art place ∧
      exec (.artOpen b) s =
        .next (({ s with art := art }).replied 0xA0 .done
          (put32 (readShape b).size ++ put16 (readShape b).blocks ++ put16 (freeBlocks art))) := by
  refine ⟨openEntry s.art place (readShape b), Table.find?_insert_same _ _ _,
    fun n other => Table.find?_insert_other _ _ other, freeBlocks_openEntry ok room, ?_⟩
  rw [exec_artOpen taken, artOpen_named named length, if_pos good,
    artOpenAt_opens (s := s.countTaken) alone unused room, settle_done_art]
  rfl

/-! ## ART WRITE (R182) -/

theorem exec_artWrite {s : State} (taken : s.Takes) (b : List Byte) :
    exec (.artWrite b) s = .next ((artWrite b s.countTaken).settle 0xA1) := congrArg Host.Outcome.next (sendCommand_takes taken)

section
variable {b : List Byte}

theorem artWrite_badLength (length : b.length < 7 ∨ 230 < b.length) (s : State) : artWrite b s = .refuse s .badLength :=
  if_pos length

variable (low : 7 ≤ b.length) (high : b.length ≤ 230)
include low high

theorem artWrite_unnamed (unnamed : artPlace (u8 b 0) (u8 b 1) = none) (s : State) :
    artWrite b s = .refuse s .badField := by
  rw [artWrite, if_neg (by omega), unnamed]

variable {s : State} {place : Nat} (named : artPlace (u8 b 0) (u8 b 1) = some place)
include named

theorem artWrite_wrongState (closed : openAt s.art place = none) : artWrite b s = .refuse s .wrongState := by
  simp only [artWrite, if_neg (show ¬ (b.length < 7 ∨ 230 < b.length) by omega), named, closed]

variable {e : ArtEntry} (isOpen : openAt s.art place = some e)
include isOpen

/-- R182: what ART WRITE makes of the OPEN entry that it names. -/
theorem artWrite_open :
    artWrite b s =
      if u32 b 2 ≠ e.content.length then .refuseWith s .wrongState (put32 e.content.length)
      else if e.shape.size < u32 b 2 + (b.length - 6) then .refuse s .badField
      else
        .done { s with art := Table.insert s.art place { e with content := e.content ++ b.drop 6 } }
          (put32 (e.content.length + (b.length - 6))) := by
  simp only [artWrite, if_neg (show ¬ (b.length < 7 ∨ 230 < b.length) by omega), named, isOpen, writeData,
    List.length_drop, ArtEntry.append]

theorem artWrite_wrongCursor (off : u32 b 2 ≠ e.content.length) :
    artWrite b s = .refuseWith s .wrongState (put32 e.content.length) :=
  (artWrite_open low high named isOpen).trans (if_pos off)

variable (cursor : u32 b 2 = e.content.length)
include cursor

theorem artWrite_tooMuch (much : e.shape.size < u32 b 2 + (b.length - 6)) : artWrite b s = .refuse s .badField := by
  rw [artWrite_open low high named isOpen, if_neg (not_not.mpr cursor), if_pos much]

theorem artWrite_appends (room : u32 b 2 + (b.length - 6) ≤ e.shape.size) :
    artWrite b s =
      .done { s with art := Table.insert s.art place { e with content := e.content ++ b.drop 6 } }
        (put32 (e.content.length + (b.length - 6))) := by
  rw [artWrite_open low high named isOpen, if_neg (not_not.mpr cursor), if_neg (Nat.not_lt.mpr room)]

/-- R182: an ART WRITE that passes places its data at the cursor. -/
theorem exec_artWrite_appends (taken : s.Takes) (room : u32 b 2 + (b.length - 6) ≤ e.shape.size) :
    ∃ art : Art,
      Table.find? art place = some { e with content := e.content ++ b.drop 6 } ∧
      (∀ n, n ≠ place → Table.find? art n = Table.find? s.art n) ∧
      exec (.artWrite b) s =
        .next (({ s with art := art }).replied 0xA1 .done (put32 (e.content.length + (b.length - 6)))) := by
  refine ⟨Table.insert s.art place { e with content := e.content ++ b.drop 6 }, Table.find?_insert_same _ _ _,
    fun n other => Table.find?_insert_other _ _ other, ?_⟩
  rw [exec_artWrite taken, artWrite_appends (s := s.countTaken) low high named isOpen cursor room, settle_done_art]
  rfl

end

/-! ## ART CLOSE (R183) -/

theorem exec_artClose {s : State} (taken : s.Takes) (b : List Byte) :
    exec (.artClose b) s = .next ((artClose b s.countTaken).settle 0xA2) := congrArg Host.Outcome.next (sendCommand_takes taken)

theorem ArtEntry.closes_iff (e : ArtEntry) (check : Nat) :
    e.closes check = true ↔ e.content.length = e.shape.size ∧ (crc32 e.content).toNat = check := by
  simp [ArtEntry.closes]

section
variable {b : List Byte}

theorem artClose_badLength (length : b.length ≠ 6) (s : State) : artClose b s = .refuse s .badLength := if_pos length

variable (length : b.length = 6)
include length

theorem artClose_unnamed (unnamed : artPlace (u8 b 0) (u8 b 1) = none) (s : State) :
    artClose b s = .refuse s .badField := by
  rw [artClose, if_neg (not_not.mpr length), unnamed]

variable {s : State} {place : Nat} (named : artPlace (u8 b 0) (u8 b 1) = some place)
include named

theorem artClose_wrongState (closed : openAt s.art place = none) : artClose b s = .refuse s .wrongState := by
  simp only [artClose, if_neg (not_not.mpr length), named, closed]

variable {e : ArtEntry} (isOpen : openAt s.art place = some e)
include isOpen

theorem artClose_ready (closes : e.closes (u32 b 2) = true) :
    artClose b s =
      .done { s with art := Table.insert s.art place { e with ready := true } } (put32 e.shape.size) := by
  simp only [artClose, if_neg (not_not.mpr length), named, isOpen, if_pos closes]

theorem artClose_badCheck (broken : ¬ e.closes (u32 b 2) = true) :
    artClose b s =
      .refuseWith { s with art := Table.erase s.art place } .badCheck (put32 e.content.length) := by
  simp only [artClose, if_neg (not_not.mpr length), named, isOpen, if_neg broken]

variable (taken : s.Takes)
include taken

/-- R183: a complete entry with the right check becomes READY. -/
theorem exec_artClose_ready (whole : e.content.length = e.shape.size) (right : (crc32 e.content).toNat = u32 b 2) :
    ∃ art : Art,
      Table.find? art place = some { e with ready := true } ∧
      (∀ n, n ≠ place → Table.find? art n = Table.find? s.art n) ∧
      exec (.artClose b) s = .next (({ s with art := art }).replied 0xA2 .done (put32 e.shape.size)) := by
  have closes : e.closes (u32 b 2) = true := (e.closes_iff _).mpr ⟨whole, right⟩
  refine ⟨Table.insert s.art place { e with ready := true }, Table.find?_insert_same _ _ _,
    fun n other => Table.find?_insert_other _ _ other, ?_⟩
  rw [exec_artClose taken, artClose_ready (s := s.countTaken) length named isOpen closes, settle_done_art]
  rfl

/-- R183: any other entry becomes EMPTY. -/
theorem exec_artClose_badCheck
    (wrong : e.content.length ≠ e.shape.size ∨ (crc32 e.content).toNat ≠ u32 b 2) :
    ∃ art : Art,
      Table.find? art place = none ∧ (∀ n, n ≠ place → Table.find? art n = Table.find? s.art n) ∧
      exec (.artClose b) s = .next (({ s with art := art }).replied 0xA2 .badCheck (put32 e.content.length)) := by
  have broken : ¬ e.closes (u32 b 2) = true := mt (e.closes_iff _).mp (not_and_or.mpr wrong)
  refine ⟨Table.erase s.art place, Table.find?_erase_same _ _, fun n other => Table.find?_erase_other _ other, ?_⟩
  rw [exec_artClose taken, artClose_badCheck (s := s.countTaken) length named isOpen broken, settle_refuseWith_art]
  rfl

end

/-- Settles O54: the check and the sizes; then the refusals of the three commands, and what each does to the entry that kind
and number name. -/
theorem artUploads : Obligations.ArtUploads := by
  refine ⟨crc32_nineDigits, rfl, fun b byte => (crc32_append b byte).trans (crc32Byte_eq _ _), fun _ _ _ _ => ⟨rfl, rfl⟩,
    blocks_bounds, fun _ => rfl, fun _ _ => rfl, fun b s place isNamed taken naming => ?_⟩
  refine ⟨fun short => ?openShort, fun length => ?writeLength, fun length => ?closeLength,
    fun out => ⟨fun long => ?openUnnamed, fun low high => ?writeUnnamed, fun length => ?closeUnnamed⟩, fun given => ?_⟩
  case openShort => rw [exec_artOpen taken, artOpen_short short, settle_refuse]
  case writeLength => rw [exec_artWrite taken, artWrite_badLength length, settle_refuse]
  case closeLength => rw [exec_artClose taken, artClose_badLength length, settle_refuse]
  case openUnnamed => rw [exec_artOpen taken, artOpen_unnamed long (artPlace_eq_none out), settle_refuse]
  case writeUnnamed => rw [exec_artWrite taken, artWrite_unnamed low high (artPlace_eq_none out), settle_refuse]
  case closeUnnamed => rw [exec_artClose taken, artClose_unnamed length (artPlace_eq_none out), settle_refuse]
  have named : artPlace (u8 b 0) (u8 b 1) = some place := artPlace_eq_some.mpr (naming.mp given)
  refine ⟨fun long misfit => ?openLength, fun shape good carried => ?opening, fun ready => ?notOpen,
    fun e listed waiting => ?uploading⟩
  case openLength =>
    have length : b.length ≠ if u8 b 0 = 0 then 33 else 9 := by split <;> omega
    rw [exec_artOpen taken, artOpen_badLength long named length, settle_refuse]
  case opening =>
    obtain ⟨length, rfl, inRange⟩ := readShape_cases carried
    refine ⟨fun bad => ?badField, fun isGood n e listed waiting ok other => ?wrongState, fun isGood ready => ?free⟩
    case badField => rw [exec_artOpen taken, artOpen_named named length, if_neg (mt inRange.mp bad), settle_refuse]
    case wrongState =>
      have clash : otherOpen s.countTaken.art place = some n := otherOpen_eq_some ok listed waiting other
      rw [exec_artOpen taken, artOpen_named named length, if_pos (inRange.mpr isGood), artOpenAt_wrongState clash,
        settle_refuseWith, placeName_eq]
    case free =>
      have alone : otherOpen s.countTaken.art place = none := otherOpen_eq_none ready
      rw [← blocksAt_eq]
      refine ⟨fun used => ?inUse, fun unused own blocks => blocks ▸ ⟨fun much => ?full, fun room ok => ?opens⟩⟩
      case opens => exact exec_artOpen_opens taken named length (inRange.mpr isGood) alone unused room ok
      all_goals rw [exec_artOpen taken, artOpen_named named length, if_pos (inRange.mpr isGood)]
      case inUse => rw [artOpenAt_inUse alone used, settle_refuse]
      case full => rw [artOpenAt_full alone unused much, settle_refuse]
  case notOpen =>
    have closed : openAt s.countTaken.art place = none := openAt_eq_none ready
    refine ⟨fun low high => ?write, fun length => ?close⟩
    case write => rw [exec_artWrite taken, artWrite_wrongState low high named closed, settle_refuse]
    case close => rw [exec_artClose taken, artClose_wrongState length named closed, settle_refuse]
  case uploading =>
    have isOpen : openAt s.countTaken.art place = some e := openAt_eq_some.mpr ⟨listed, waiting⟩
    refine ⟨fun low high => ⟨fun off => ?wrongCursor, fun cursor => ⟨fun much => ?tooMuch, fun room => ?appends⟩⟩,
      fun length => ⟨exec_artClose_ready length named isOpen taken, exec_artClose_badCheck length named isOpen taken⟩⟩
    case wrongCursor => rw [exec_artWrite taken, artWrite_wrongCursor low high named isOpen off, settle_refuseWith]
    case tooMuch => rw [exec_artWrite taken, artWrite_tooMuch low high named isOpen cursor much, settle_refuse]
    case appends => exact exec_artWrite_appends low high named isOpen cursor taken room

end Sys2Proof.Machine
end

section
/-! PROOFS. O55: ART DROP and ART GET (R57, R184, R185). -/

namespace Sys2Proof.Machine

/-! ## In use (R57) -/

/-- R57: a price is drawn from its glyph set unless nothing is drawn or the glyph set is missing. -/
theorem FitOutcome.draws_iff_ne (o : FitOutcome) : o.draws = true ↔ o ≠ .nothing ∧ o ≠ .noArt := by
  cases o <;> simp [FitOutcome.draws]

/-- R57: a view draws from the glyph set of its price, and from the cards of its action and its badge. -/
theorem SlotView.uses_iff (v : SlotView) (place : Nat) :
    v.uses place = true ↔
      (∃ p, v.price = some p ∧ p.glyphSet.val = place ∧ p.outcome ≠ .nothing ∧ p.outcome ≠ .noArt) ∨
        ∃ k : Fin 63, (v.action = .coverCard k ∨ v.badge = some k) ∧ k.val + 4 = place := by
  obtain ⟨kind, record, action, price, badge⟩ := v
  simp only [SlotView.uses, Bool.or_eq_true, or_assoc, or_and_right, exists_or]
  refine or_congr ?price (or_congr ?cover ?badge)
  case price =>
    cases price with
    | none => simp
    | some p => simp [FitOutcome.draws_iff_ne, glyphPlace, and_comm]
  case cover => cases action <;> simp [cardPlace]
  case badge => cases badge <;> simp [cardPlace]

/-! ## ART DROP (R184) -/

theorem exec_artDrop {s : State} (taken : s.Takes) (b : List Byte) :
    exec (.artDrop b) s = .next ((artDrop b s.countTaken).settle 0xA3) := congrArg Host.Outcome.next (sendCommand_takes taken)

section
variable {b : List Byte}

theorem artDrop_badLength (length : b.length ≠ 2) (s : State) : artDrop b s = .refuse s .badLength := if_pos length

variable (length : b.length = 2)
include length

theorem artDrop_unnamed (unnamed : artPlace (u8 b 0) (u8 b 1) = none) (s : State) : artDrop b s = .refuse s .badField := by
  rw [artDrop, if_neg (not_not.mpr length), unnamed]

variable {s : State} {place : Nat} (named : artPlace (u8 b 0) (u8 b 1) = some place)
include named

theorem artDrop_noEntry (empty : Table.find? s.art place = none) : artDrop b s = .refuse s .noEntry := by
  simp only [artDrop, if_neg (not_not.mpr length), named, empty]

variable {e : ArtEntry} (listed : Table.find? s.art place = some e)
include listed

theorem artDrop_inUse (used : captureUses s.groups place = true) : artDrop b s = .refuse s .inUse := by
  simp only [artDrop, if_neg (not_not.mpr length), named, listed, if_pos used]

theorem artDrop_frees (unused : captureUses s.groups place = false) :
    artDrop b s =
      .done { s with art := Table.erase s.art place } (put16 (freeBlocks (Table.erase s.art place))) := by
  simp only [artDrop, if_neg (not_not.mpr length), named, listed, unused, Bool.false_eq_true, if_false]

end

/-! ## ART GET (R185) -/

theorem exec_artGet {s : State} (taken : s.Takes) (b : List Byte) :
    exec (.artGet b) s = .next ((artGet b s.countTaken).settle 0xA4) := congrArg Host.Outcome.next (sendCommand_takes taken)

section
variable {b : List Byte}

theorem artGet_badLength (length : b.length ≠ 2) (s : State) : artGet b s = .refuse s .badLength := if_pos length

variable (length : b.length = 2)
include length

theorem artGet_unnamed (unnamed : artPlace (u8 b 0) (u8 b 1) = none) (s : State) : artGet b s = .refuse s .badField := by
  rw [artGet, if_neg (not_not.mpr length), unnamed]

theorem artGet_answers {place : Nat} (named : artPlace (u8 b 0) (u8 b 1) = some place) (s : State) :
    artGet b s =
      .done s
        (put8 (u8 b 0) ++ put8 (u8 b 1) ++
          artEntryBody (u8 b 0) (captureUses s.groups place) (Table.find? s.art place)) := by
  simp only [artGet, if_neg (not_not.mpr length), named]

end

theorem artEntryBody_empty (kind : Nat) (used : Bool) :
    artEntryBody kind used none =
      ([0, if used then 1 else 0] ++ put32 0 ++ put32 0 ++ put16 0) ++ List.replicate (if kind = 0 then 31 else 7) 0 := by
  rw [artEntryBody, putFlag_eq]
  rfl

theorem artEntryBody_held (kind : Nat) (used : Bool) (e : ArtEntry) :
    artEntryBody kind used (some e) =
      ([if e.ready then 2 else 1, if used then 1 else 0] ++ put32 e.shape.size ++ put32 e.content.length ++
        put16 e.shape.blocks) ++ shapeBody kind (some e.shape) := by
  rw [artEntryBody, putFlag_eq]
  cases e.ready <;> rfl

theorem shapeBody_glyphSet (kind h : Nat) (advances : List Nat) :
    shapeBody kind (some (.glyphSet h advances)) = put16 h ++ advances.map (BitVec.ofNat 8) := by
  rw [shapeBody, List.map_eq_flatMap]
  rfl

theorem shapeBody_card (kind w h : Nat) (fill : Colour) :
    shapeBody kind (some (.card w h fill)) = put16 w ++ put16 h ++ [fill.r, fill.g, fill.b] := rfl

/-- Settles O55: what a capture uses; then the refusals of both commands, the entry freed and the entry read. -/
theorem artDropAndGet : Obligations.ArtDropAndGet := by
  refine ⟨fun groups place => ?inUse, fun b s place isNamed taken naming => ?_⟩
  case inUse => simp only [captureUses_iff, SlotView.uses_iff, exists_and_left]
  rw [exec_artDrop taken, exec_artGet taken]
  refine ⟨fun length => ⟨?dropLength, ?getLength⟩, fun length out => ⟨?dropUnnamed, ?getUnnamed⟩, fun length given => ?_⟩
  case dropLength => rw [artDrop_badLength length, settle_refuse]
  case getLength => rw [artGet_badLength length, settle_refuse]
  case dropUnnamed => rw [artDrop_unnamed length (artPlace_eq_none out), settle_refuse]
  case getUnnamed => rw [artGet_unnamed length (artPlace_eq_none out), settle_refuse]
  have named : artPlace (u8 b 0) (u8 b 1) = some place := artPlace_eq_some.mpr (naming.mp given)
  refine ⟨fun empty => ?noEntry, fun e listed => ⟨fun used => ?used, fun unused ok => ?frees⟩, ?answers⟩
  case noEntry => rw [artDrop_noEntry (s := s.countTaken) length named empty, settle_refuse]
  case used => rw [artDrop_inUse (s := s.countTaken) length named listed used, settle_refuse]
  case frees =>
    refine ⟨Table.erase s.art place, Table.find?_erase_same _ _, fun n other => Table.find?_erase_other _ other,
      freeBlocks_erase ok listed, ?_⟩
    rw [artDrop_frees (s := s.countTaken) length named listed unused, settle_done_art]
    rfl
  case answers =>
    have answer : (artGet b s.countTaken).settle 0xA4 =
        s.replied 0xA4 .done
          ([BitVec.ofNat 8 (u8 b 0), BitVec.ofNat 8 (u8 b 1)] ++
            artEntryBody (u8 b 0) (captureUses s.groups place) (Table.find? s.art place)) := by
      rw [artGet_answers length named, settle_done]
      rfl
    rw [answer]
    cases Table.find? s.art place with
    | none =>
      refine ⟨_, _, fun _ => ⟨rfl, rfl⟩, nofun, ?_⟩
      rw [artEntryBody_empty, ← List.append_assoc]
    | some e =>
      refine ⟨[if e.ready then 2 else 1, if captureUses s.groups place then 1 else 0] ++ put32 e.shape.size ++
        put32 e.content.length ++ put16 e.shape.blocks, shapeBody (u8 b 0) (some e.shape), nofun, fun _ held => ?parts, ?reply⟩
      case parts =>
        cases held
        exact ⟨rfl, fun h advances glyphs => by rw [glyphs, shapeBody_glyphSet],
          fun w h fill card => by rw [card, shapeBody_card]⟩
      case reply => rw [artEntryBody_held, ← List.append_assoc]

end Sys2Proof.Machine
end
